-- ==== Sys2Proof/Word.lean ====
section
/-! DEFINITION. The byte and 16-bit words of 00_scope.md rule R10, the names of the byte spaces, and the
layout of a decode record (10_state.md rule R37). Plain data; no operation that a repair could need. -/

namespace Sys2Proof

/-- A byte: 8 bits, unsigned (R10). -/
abbrev Byte := BitVec 8

/-- A `u16`: 16 bits, unsigned (R10). -/
abbrev U16 := BitVec 16

/-- The byte spaces of 20_memory.md rule R50. The fourth space, REC, holds records, not bytes. -/
inductive Space where
  | inp
  | name
  | out
deriving DecidableEq, Repr

/-- The five header fields of the glossary (00_scope.md R15), with the trimmed name length beside them
(10_state.md R37: `h_type`, `h_name[0..9]`, `h_nlen`, `h_dlen`, `h_p1`, `h_p2`). -/
structure Header where
  hType : Byte
  hName : Vector Byte 10
  hNlen : BitVec 4
  hDlen : U16
  hP1   : U16
  hP2   : U16
deriving DecidableEq, Repr, Inhabited

/-- One record of the REC space (10_state.md rule R37). `hdr_valid` is `header.isSome`: "a model should
represent the header as an absent optional value". -/
structure BlockRecord where
  length   : U16
  flag     : Byte
  payOff   : Nat
  payload  : List Byte
  checksum : Byte
  header   : Option Header
  warn     : Bool
deriving DecidableEq, Repr, Inhabited

end Sys2Proof
end

