-- ==== Sys2Proof/Config.lean ====
section
/-! DEFINITION. What an implementation fixes: the parameters of 00_scope.md rule R9. And the free values:
opaque constants with no body for what the spec leaves at "any value" (93_implementation_defined.md U10 to U12). -/

namespace Sys2Proof.Config

/-- The parameters of rule R9, which "the model takes … as arguments": the step's type has no room for an
argument, so a state carries them and no step changes them (log 1, DESIGN CHOICE, safe). `recMax = none` is
the default "unbounded". `BUS` has no counterpart (log 18). -/
structure Params where
  argw    : Nat
  inMax   : Nat
  nameMax : Nat
  outMax  : Nat
  recMax  : Option Nat
deriving DecidableEq, Repr

/-- The default column of rule R9's table. -/
def Params.default : Params where
  argw    := 32
  inMax   := 2 ^ 32 - 1
  nameMax := 2 ^ 32 - 1
  outMax  := 65558
  recMax  := none

/-- The constraint column of rule R9's table, but for `OUT_MAX >= 65558`, which that table asks for only so
that "every legal `ENC_TAP`" fits: a smaller `OUT_MAX` is a machine too, on which an output that does not fit
is refused (70_reset_and_hazards.md R221). -/
abbrev Params.Legal (p : Params) : Prop :=
  17 ≤ p.argw ∧ p.inMax ≤ 2 ^ p.argw - 1 ∧ p.nameMax ≤ 2 ^ p.argw - 1

/-- Free value: what the byte of a space at an offset holds when nothing has written it since the reset
numbered by the first argument (U12 "any value"; log 4). -/
opaque unwrittenByte : Nat → Space → Nat → Byte

/-- Free value: what a host read of OUT past `OUT_LEN`, or while `BUSY`, returns (U10, U11; log 6), and what a scan under
way reads of a byte of IN the host has written meanwhile (U11, 70_reset_and_hazards.md R217; log 13). -/
opaque freeByte : Nat → Byte

/-- Free value: what a host read of a result register while `BUSY` returns, before it is cut to the
register's width (U11, 70_reset_and_hazards.md R218; log 6). -/
opaque freeWord : Nat → Nat

/-- Free value: what a host read of REC past `REC_CNT`, or while `BUSY`, returns (U10, U11; log 6). -/
opaque freeRecord : Nat → BlockRecord

end Sys2Proof.Config
end

