-- ==== Sys2Proof/Syntax.lean ====
section
/-! DEFINITION. The instructions: one constructor per row of spec/opcode_table.json. -/

namespace Sys2Proof

/-- The two formats of the opcode table (30_encoding.md, opening paragraph): the 3-bit command code written to
`CMD`, and the 3-byte head (length, flag) of a framed block in IN. -/
inductive Format where
  | cmd3
  | framedBlock
deriving DecidableEq, Repr

/-- One constructor per row. The commands have "no operand fields" (R86). The block rows carry the bits of
`W` (R80) their mask leaves open: the flag byte, the length field, or both (log 16). -/
inductive Instr where
  /-- R102 -/
  | csum
  /-- R116 -/
  | encHdr
  /-- R133 -/
  | encData
  /-- R142 -/
  | encTap
  /-- R150 -/
  | dec
  /-- R85, code 0b000 -/
  | reserved0
  /-- R85, code 0b110 -/
  | reserved6
  /-- R85, code 0b111 -/
  | reserved7
  /-- R155, length field 0 -/
  | blkIllegalLen0 (flag : Byte)
  /-- R155, length field 1 -/
  | blkIllegalLen1 (flag : Byte)
  /-- R159, flag 0x00 and length 0x13 -/
  | blkHdr
  /-- R162, flag 0xFF -/
  | blkData (len : U16)
  /-- R162, the default row -/
  | blkOther (len : U16) (flag : Byte)
deriving DecidableEq, Repr

/-- The format of an instruction's row. -/
def Instr.format : Instr → Format
  | .csum | .encHdr | .encData | .encTap | .dec | .reserved0 | .reserved6 | .reserved7 => .cmd3
  | .blkIllegalLen0 _ | .blkIllegalLen1 _ | .blkHdr | .blkData _ | .blkOther _ _ => .framedBlock

/-- The row's mnemonic, as the table spells it. -/
def Instr.mnemonic : Instr → String
  | .csum => "CSUM"
  | .encHdr => "ENC_HDR"
  | .encData => "ENC_DATA"
  | .encTap => "ENC_TAP"
  | .dec => "DEC"
  | .reserved0 => "RESERVED_0"
  | .reserved6 => "RESERVED_6"
  | .reserved7 => "RESERVED_7"
  | .blkIllegalLen0 _ => "BLK_ILLEGAL_LEN0"
  | .blkIllegalLen1 _ => "BLK_ILLEGAL_LEN1"
  | .blkHdr => "BLK_HDR"
  | .blkData _ => "BLK_DATA"
  | .blkOther _ _ => "BLK_OTHER"

end Sys2Proof
end

