-- ==== Sys2Proof/WellFormed.lean ====
section
/-! DEFINITION. Which terms of `Instr` are instructions: the block classes of 30_encoding.md rules R80 and R82
are disjoint, so a class's operands stay out of the classes tried before it. -/

namespace Sys2Proof

/-- `BLK_DATA` and `BLK_OTHER` need `length >= 2` (R71, R80); `BLK_OTHER` is "neither of the above", so its
flag is not 0xFF and its (flag, length) is not (0x00, 0x13). Every other term is an instruction. -/
def Instr.wellFormed : Instr → Bool
  | .csum | .encHdr | .encData | .encTap | .dec | .reserved0 | .reserved6 | .reserved7 => true
  | .blkIllegalLen0 _ | .blkIllegalLen1 _ | .blkHdr => true
  | .blkData len => decide (2 ≤ len.toNat)
  | .blkOther len flag =>
      decide (2 ≤ len.toNat) && (flag != 0xFF#8) && !(flag == 0x00#8 && len == 0x0013#16)

end Sys2Proof
end

