-- ==== Sys2Proof/Decode.lean ====
section
/-! DEFINITION. Byte order (20_memory.md R55), the decoder of both formats of the opcode table (30_encoding.md
R80, R82, R84), and the encoder. -/

namespace Sys2Proof

/-- `le16(v) = [v mod 256, v div 256]` (R55). -/
def le16 (v : U16) : List Byte := [v.extractLsb' 0 8, v.extractLsb' 8 8]

/-- `u16le([b0, b1]) = b0 + 256 * b1` (R55), on the two bytes. -/
def u16le (b0 b1 : Byte) : U16 := b1 ++ b0

/-- The instruction a command code selects: the table of rule R84, all eight codes. -/
def decodeCode (c : BitVec 3) : Instr :=
  match c.toNat with
  | 0 => .reserved0
  | 1 => .csum
  | 2 => .encHdr
  | 3 => .encData
  | 4 => .encTap
  | 5 => .dec
  | 6 => .reserved6
  | _ => .reserved7

/-- The class of a block by its first three bytes (R80, R82; the priorities of spec/opcode_table.json: the
two illegal lengths, then header-shaped, then data, then the default). -/
def classify (len : U16) (flag : Byte) : Instr :=
  if len = 0x0000#16 then .blkIllegalLen0 flag
  else if len = 0x0001#16 then .blkIllegalLen1 flag
  else if flag = 0x00#8 ∧ len = 0x0013#16 then .blkHdr
  else if flag = 0xFF#8 then .blkData len
  else .blkOther len flag

/-- Why bytes hold no instruction. No bit pattern is rejected (every code and every head is a row); only
missing bytes are. -/
inductive DecodeError where
  /-- a command code was asked for and there is no byte -/
  | noCode
  /-- fewer than two bytes where a length field should start (44_decode.md R153) -/
  | noLength
  /-- a length field and no flag byte after it (R154) -/
  | noFlag (len : U16)
deriving DecidableEq, Repr

/-- The decoder, total on any bytes: the instruction and the bytes after its head. -/
def decode : Format → List Byte → Except DecodeError (Instr × List Byte)
  | .cmd3, [] => .error .noCode
  | .cmd3, b :: rest => .ok (decodeCode (b.extractLsb' 0 3), rest)
  | .framedBlock, b0 :: b1 :: flag :: rest => .ok (classify (u16le b0 b1) flag, rest)
  | .framedBlock, [b0, b1] => .error (.noFlag (u16le b0 b1))
  | .framedBlock, [_] => .error .noLength
  | .framedBlock, [] => .error .noLength

/-- The head of a framed block: length field, flag (R70). -/
def blockHead (len : U16) (flag : Byte) : List Byte := le16 len ++ [flag]

/-- The bytes of an instruction: one byte holding the command code (R84), or the block's head (R70). -/
def encode : Instr → List Byte
  | .reserved0 => [0b000#8]
  | .csum => [0b001#8]
  | .encHdr => [0b010#8]
  | .encData => [0b011#8]
  | .encTap => [0b100#8]
  | .dec => [0b101#8]
  | .reserved6 => [0b110#8]
  | .reserved7 => [0b111#8]
  | .blkIllegalLen0 flag => blockHead 0x0000#16 flag
  | .blkIllegalLen1 flag => blockHead 0x0001#16 flag
  | .blkHdr => blockHead 0x0013#16 0x00#8
  | .blkData len => blockHead len 0xFF#8
  | .blkOther len flag => blockHead len flag

/-- The low `n` bytes of `w`, byte 0 (bits 7..0) first. -/
def wordBytes (n w : Nat) : List Byte := (List.range n).map fun i => BitVec.ofNat 8 (w / 256 ^ i)

/-- The format a table word of `nbits` bits is in: the `CMD3` rows have one byte, the `FRAMED_BLOCK` rows up
to three. -/
def tableFormat (nbits : Nat) : Format := if nbits ≤ 8 then .cmd3 else .framedBlock

/-- What the decoder reads from a table word: bits above `nbits` are 0, and a block's head is always three
bytes. -/
def decodeTableWord (nbits w : Nat) : Option Instr :=
  match decode (tableFormat nbits) (wordBytes 3 (w % 2 ^ nbits)) with
  | .ok (i, _) => some i
  | .error _ => none

/-- One row of spec/opcode_table.json: its mask and pattern (the table's "match"), in the order in which the
rows are tried. -/
structure OpRow where
  mnemonic : String
  mask     : Nat
  pattern  : Nat
deriving DecidableEq, Repr

/-- The `CMD3` rows, over `CMD[2:0]`. -/
def cmdRows : List OpRow :=
  [⟨"CSUM", 0x7, 0x1⟩, ⟨"ENC_HDR", 0x7, 0x2⟩, ⟨"ENC_DATA", 0x7, 0x3⟩, ⟨"ENC_TAP", 0x7, 0x4⟩,
   ⟨"DEC", 0x7, 0x5⟩, ⟨"RESERVED_0", 0x7, 0x0⟩, ⟨"RESERVED_6", 0x7, 0x6⟩, ⟨"RESERVED_7", 0x7, 0x7⟩]

/-- The `FRAMED_BLOCK` rows, over `W = byte0 + 256 * byte1 + 65536 * byte2` (R80), by increasing priority
number. -/
def blockRows : List OpRow :=
  [⟨"BLK_ILLEGAL_LEN0", 0x00FFFF, 0x000000⟩, ⟨"BLK_ILLEGAL_LEN1", 0x00FFFF, 0x000001⟩,
   ⟨"BLK_HDR", 0xFFFFFF, 0x000013⟩, ⟨"BLK_DATA", 0xFF0000, 0xFF0000⟩, ⟨"BLK_OTHER", 0x000000, 0x000000⟩]

/-- The mnemonic of the first row that matches `w` ("first match wins"). -/
def firstRow (rows : List OpRow) (w : Nat) : Option String :=
  (rows.find? fun r => w &&& r.mask == r.pattern).map OpRow.mnemonic

end Sys2Proof
end

