-- ==== Sys2Proof/Machine/State.lean ====
section
/-! DEFINITION. The state of the block (10_state.md rule R20), the host's actions on it, the reasons a step can
stop, and the state after reset (rule R42). -/

namespace Sys2Proof.Machine

/-- `STATUS` (10_state.md R22) by its fields. Bits 3 and 7 are reserved, "reads 0", "never" set, so they need
no storage; the 8-bit word is `Status.toByte` (Flags.lean). -/
structure Status where
  busy : Bool
  done : Bool
  warn : Bool
  err  : BitVec 3
deriving DecidableEq, Repr

/-- One host action (30_encoding.md R87; 10_state.md R20, R21; 20_memory.md R50). `SET`, `LOAD`, `MOVE` and the
command statements of R87 are shorthand for these. -/
inductive HostAction where
  /-- assert the reset input (70_reset_and_hazards.md R210) -/
  | reset
  /-- write a value to the register of this index; index 0 is `CMD`, whose write starts a command (R21) -/
  | writeReg (idx : Nat) (v : Nat)
  /-- read the register of this index -/
  | readReg (idx : Nat)
  /-- write a byte of IN -/
  | writeIn (off : Nat) (b : Byte)
  /-- write a byte of NAME -/
  | writeName (off : Nat) (b : Byte)
  /-- read a byte of a space -/
  | readByte (sp : Space) (off : Nat)
  /-- read a record of REC -/
  | readRec (idx : Nat)
deriving DecidableEq, Repr

/-- What a host read returns. -/
inductive HostReply where
  | word (v : Nat)
  | byte (b : Byte)
  | record (r : BlockRecord)
deriving DecidableEq, Repr

/-- Why a step ends in a fault of the model. The block's own faults (60_exceptions.md R181) are not here: they
are results in `STATUS.ERR`, and a step that raises one has a next state. -/
inductive Fault where
  /-- Raised by a host write or read of IN or NAME at an offset at or above the space's capacity, which the
  space does not have (20_memory.md R51, 00_scope.md R9; log 12). Safe: the model stops. -/
  | offsetOutsideSpace
deriving DecidableEq, Repr

/-- Why a step is refused. -/
inductive Refusal where
  /-- An instruction with no meaning yet, by its mnemonic. Raised by `exec` only. Safe. -/
  | notModelled (mnemonic : String)
  /-- `IN_LEN > IN_MAX` at a command that reads IN (R221, U15; log 11). Safe. -/
  | inputBeyondCapacity
  /-- `NAME_LEN > NAME_MAX` at a command that reads NAME (R221, U15; log 11). Safe. -/
  | nameBeyondCapacity
  /-- An encode command whose output would exceed `OUT_MAX` (R221, U15; log 11). Safe. -/
  | outputBeyondCapacity
  /-- A `DEC` that would append a record past `REC_MAX` (R221, U15; log 11). Safe. -/
  | recordsBeyondCapacity
deriving DecidableEq, Repr

/-- The whole state (10_state.md R20), with the model's own fields `params`, `moved`, `host`, `reply`,
`epoch` and `free` beside it. `CMD` "holds no state: the write is an event" (R21). The `ARGW`-bit registers are counts and
offsets, held as naturals that every write cuts to `ARGW` bits (log 2). -/
structure State where
  /-- model's own: the parameters of 00_scope.md R9, constant (log 1) -/
  params  : Config.Params
  /-- register 1, R22 -/
  status  : Status
  /-- register 2, R23 -/
  aDlen   : Nat
  /-- register 3, R24 -/
  aAddr   : Nat
  /-- register 4, R25 -/
  inLen   : Nat
  /-- register 5, R26 -/
  nameLen : Nat
  /-- register 6, R27 -/
  outLen  : Nat
  /-- register 7, R28 -/
  recCnt  : Nat
  /-- register 8, R29 -/
  warnCnt : Nat
  /-- register 9, R30 -/
  acc     : Byte
  /-- `CUR`, R31 -/
  cur     : Nat
  /-- `LEN`, R32 -/
  len     : U16
  /-- `FLAG`, R32 -/
  flag    : Byte
  /-- `CHK`, R32 -/
  chk     : Byte
  /-- `H_TYPE`, R33 -/
  hType   : Byte
  /-- `H_NAME[0..9]`, R33 -/
  hName   : Vector Byte 10
  /-- `H_NLEN`, R33 -/
  hNlen   : BitVec 4
  /-- `H_DLEN`, R33 -/
  hDlen   : U16
  /-- `H_P1`, R33 -/
  hP1     : U16
  /-- `H_P2`, R33 -/
  hP2     : U16
  /-- the IN space, 20_memory.md R50: the bytes written, by offset -/
  inMem   : List Host.Cell
  /-- the NAME space -/
  nameMem : List Host.Cell
  /-- the OUT space -/
  outMem  : List Host.Cell
  /-- the REC space: the records written, by index -/
  recMem  : List (Nat × BlockRecord)
  /-- model's own: what the scan under way reads of IN at the offsets the host has written since it began, where that
  is not what IN holds (R217, U11; log 13) -/
  moved   : List Host.Cell
  /-- model's own: the host actions still to come, the next one first (log 7) -/
  host    : List HostAction
  /-- model's own: what the host's last read returned (log 7) -/
  reply   : Option HostReply
  /-- model's own: the resets so far, the index of the free values of unwritten bytes (log 5) -/
  epoch   : Nat
  /-- model's own: the free values used so far (logs 6 and 13) -/
  free    : Nat
deriving DecidableEq, Repr

/-- The state after reset (10_state.md R42, 70_reset_and_hazards.md R210), with the default parameters.
Internal registers: R42 leaves them unspecified, named 0 (log 3, DESIGN CHOICE, unsafe but unobservable, R34).
Spaces: nothing written (log 4). `moved`, `host`, `reply`, `epoch`, `free`: the model's own (logs 5 to 7, 13). -/
def State.reset : State where
  params  := .default
  status  := { busy := false, done := false, warn := false, err := 0#3 }
  aDlen   := 0
  aAddr   := 0x8000
  inLen   := 0
  nameLen := 0
  outLen  := 0
  recCnt  := 0
  warnCnt := 0
  acc     := 0x00#8
  cur     := 0
  len     := 0#16
  flag    := 0#8
  chk     := 0#8
  hType   := 0#8
  hName   := Vector.replicate 10 0#8
  hNlen   := 0#4
  hDlen   := 0#16
  hP1     := 0#16
  hP2     := 0#16
  inMem   := []
  nameMem := []
  outMem  := []
  recMem  := []
  moved   := []
  host    := []
  reply   := none
  epoch   := 0
  free    := 0

end Sys2Proof.Machine
end

