-- ==== Sys2Proof/Machine/Flags.lean ====
section
/-! DEFINITION. `STATUS` and the fault codes: the flag computations of 10_state.md rules R22, R35, R39, R40 and
60_exceptions.md rules R181, R186. -/

namespace Sys2Proof.Machine

/-- The block's faults (60_exceptions.md R181). The warning MalformedHeaderPayload is none of them (R189). -/
inductive TapFault where
  | encodingError
  | streamTruncated
  | malformedBlock
  | sizeExceeded
  | illegalCommand
deriving DecidableEq, Repr

/-- The code a fault leaves in `STATUS.ERR` (R181). -/
def TapFault.code : TapFault → BitVec 3
  | .encodingError   => 1#3
  | .streamTruncated => 2#3
  | .malformedBlock  => 3#3
  | .sizeExceeded    => 4#3
  | .illegalCommand  => 5#3

/-- `STATUS` as an 8-bit word: `BUSY + 2*DONE + 4*WARN + 16*ERR`, bits 3 and 7 reading 0 (R22). -/
def Status.toByte (st : Status) : Byte :=
  0#1 ++ st.err ++ 0#1 ++ BitVec.ofBool st.warn ++ BitVec.ofBool st.done ++ BitVec.ofBool st.busy

/-- `STATUS` at command start (R39): BUSY 1, DONE 0, WARN 0, ERR 0, whatever it was. -/
def Status.started (_ : Status) : Status := { busy := true, done := false, warn := false, err := 0#3 }

/-- `STATUS` at command end (R40): BUSY 0, DONE 1, the other fields kept. -/
def Status.ended (st : Status) : Status := { st with busy := false, done := true }

/-- `STATUS` when a fault is raised (R186): ERR its code, WARN 0, then the command end. -/
def Status.raised (st : Status) (f : TapFault) : Status := { st with warn := false, err := f.code }.ended

/-- `STATUS` when `DEC` records a warning (44_decode.md R161): WARN 1, ERR "is not touched". -/
def Status.warned (st : Status) : Status := { st with warn := true }

end Sys2Proof.Machine
end

