-- ==== Sys2Proof/Machine/Ops.lean ====
section
/-! DEFINITION. The named operations over the spaces and registers: sparse memory, register writes cut to their
width, command start and end, fault entry, emission, and the accumulator. -/

namespace Sys2Proof.Machine

/-! ## Sparse memory: a list of (offset, content) pairs, offsets strictly rising. An unlisted offset has no
content of its own, so no entry can equal what an unlisted offset reads as. -/

/-- Every offset of `m` is above `a`, and they rise strictly from there. -/
def Memory.risingFrom {α : Type} : Nat → List (Nat × α) → Bool
  | _, [] => true
  | a, (k, _) :: m => decide (a ≤ k) && Memory.risingFrom (k + 1) m

/-- The canonical form: offsets strictly rising. -/
def Memory.wf {α : Type} (m : List (Nat × α)) : Bool := Memory.risingFrom 0 m

/-- What is written at offset `a`, if anything is. -/
def Memory.read? {α : Type} : List (Nat × α) → Nat → Option α
  | [], _ => none
  | (k, v) :: m, a => if k = a then some v else Memory.read? m a

/-- Write `v` at offset `a`. -/
def Memory.write {α : Type} : List (Nat × α) → Nat → α → List (Nat × α)
  | [], a, v => [(a, v)]
  | (k, w) :: m, a, v =>
    if a < k then (a, v) :: (k, w) :: m
    else if a = k then (a, v) :: m
    else (k, w) :: Memory.write m a v

/-- Write every cell of a list, in order. -/
def Memory.writeCells {α : Type} (m cells : List (Nat × α)) : List (Nat × α) :=
  cells.foldl (fun m c => Memory.write m c.1 c.2) m

/-! ## Writes of one register or cell -/

/-- A value cut to the width `ARGW` ("truncated to the register's width", 00_scope.md R12). -/
def State.fit (s : State) (v : Nat) : Nat := v % 2 ^ s.params.argw

def State.setStatus (s : State) (st : Status) : State := { s with status := st }
def State.setADlen (s : State) (v : Nat) : State := { s with aDlen := s.fit v }
def State.setAAddr (s : State) (v : Nat) : State := { s with aAddr := s.fit v }
def State.setInLen (s : State) (v : Nat) : State := { s with inLen := s.fit v }
def State.setNameLen (s : State) (v : Nat) : State := { s with nameLen := s.fit v }
def State.setOutLen (s : State) (v : Nat) : State := { s with outLen := s.fit v }
def State.setRecCnt (s : State) (v : Nat) : State := { s with recCnt := s.fit v }
def State.setWarnCnt (s : State) (v : Nat) : State := { s with warnCnt := s.fit v }
def State.setAcc (s : State) (b : Byte) : State := { s with acc := b }
def State.setCur (s : State) (v : Nat) : State := { s with cur := s.fit v }
def State.setLen (s : State) (v : U16) : State := { s with len := v }
def State.setFlag (s : State) (b : Byte) : State := { s with flag := b }
def State.setChk (s : State) (b : Byte) : State := { s with chk := b }
/-- The field registers both directions of the marshaler load: `H_TYPE`, `H_NAME[0..9]`, `H_DLEN`, `H_P1`, `H_P2`. -/
def State.setFields (s : State) (ty : Byte) (nm : Vector Byte 10) (dl p1 p2 : U16) : State :=
  { s with hType := ty, hName := nm, hDlen := dl, hP1 := p1, hP2 := p2 }
def State.setHNlen (s : State) (k : BitVec 4) : State := { s with hNlen := k }
def State.putIn (s : State) (a : Nat) (b : Byte) : State := { s with inMem := Memory.write s.inMem a b }
def State.putName (s : State) (a : Nat) (b : Byte) : State := { s with nameMem := Memory.write s.nameMem a b }
def State.putOut (s : State) (a : Nat) (b : Byte) : State := { s with outMem := Memory.write s.outMem a b }
def State.putRec (s : State) (i : Nat) (r : BlockRecord) : State := { s with recMem := Memory.write s.recMem i r }
/-- What the scan under way reads at offset `a` of IN from here on, whatever IN holds there. -/
def State.putMoved (s : State) (a : Nat) (b : Byte) : State := { s with moved := Memory.write s.moved a b }
def State.setHost (s : State) (h : List HostAction) : State := { s with host := h }
def State.setReply (s : State) (r : HostReply) : State := { s with reply := some r }
/-- One more free value is used up. -/
def State.bumpFree (s : State) : State := { s with free := s.free + 1 }

/-! ## What every command shares -/

/-- Command start (10_state.md R39): `STATUS`, then `OUT_LEN`, `REC_CNT`, `WARN_CNT`, `ACC` and `CUR` to 0. -/
def State.commandStart (s : State) : State :=
  (((((s.setStatus s.status.started).setOutLen 0).setRecCnt 0).setWarnCnt 0).setAcc 0x00#8).setCur 0

/-- Command end (10_state.md R40). -/
def State.commandEnd (s : State) : State := s.setStatus s.status.ended

/-- `raise F` (60_exceptions.md R186), the block's one form of exception entry: ERR its code, the results
cleared, the command ended. "Nothing is saved": there is no handler, no vector, no mode, and no return (R192);
the next command start clears ERR. -/
def State.raise (s : State) (f : TapFault) : State :=
  ((((s.setStatus (s.status.raised f)).setOutLen 0).setRecCnt 0).setWarnCnt 0).setAcc 0x00#8

/-! ## Emission and the accumulator -/

/-- `xor_fold` (40_checksum.md R100): 0 for the empty sequence, and one more byte absorbed at the right end. -/
def xorFold (bs : List Byte) : Byte := bs.foldl (fun a b => a ^^^ b) 0x00#8

/-- Absorb a byte into `ACC` (40_checksum.md R101). -/
def State.absorb (s : State) (b : Byte) : State := s.setAcc (s.acc ^^^ b)

/-- Absorb a sequence, first byte first. -/
def State.absorbSeq (s : State) (bs : List Byte) : State := bs.foldl State.absorb s

/-- `emit(b)` (00_scope.md R12): the byte to OUT at `OUT_LEN`, then `OUT_LEN` plus one. -/
def State.emit (s : State) (b : Byte) : State := (s.putOut s.outLen b).setOutLen (s.outLen + 1)

/-- Emit a byte and absorb it. -/
def State.emitAbsorb (s : State) (b : Byte) : State := (s.emit b).absorb b

/-- `emit_block(f, p)` (42_data_encode.md R131), line by line. -/
def State.emitBlock (s : State) (f : Byte) (p : List Byte) : State :=
  let s1 := (s.setLen (BitVec.ofNat 16 (p.length + 2))).setFlag f
  let s2 := (s1.emit (s1.len.extractLsb' 0 8)).emit (s1.len.extractLsb' 8 8)
  let s3 := (s2.setAcc 0x00#8).emitAbsorb f
  let s4 := p.foldl State.emitAbsorb s3
  let s5 := s4.setChk s4.acc
  s5.emit s5.chk

/-- The framed block of a flag and a payload, the literal `BLK(f, p)` of 30_encoding.md R88. -/
def blk (f : Byte) (p : List Byte) : List Byte :=
  le16 (BitVec.ofNat 16 (p.length + 2)) ++ [f] ++ p ++ [xorFold (f :: p)]

/-! ## The record space -/

/-- A record more would exceed `REC_MAX` (70_reset_and_hazards.md R221). -/
def State.recFull (s : State) : Bool :=
  match s.params.recMax with
  | none => false
  | some m => decide (m ≤ s.recCnt)

/-- Append (44_decode.md R162): the record to `REC[REC_CNT]`, then `REC_CNT` plus one; refused past `REC_MAX`
(log 11). -/
def State.appendRecord (s : State) (r : BlockRecord) : Host.Outcome State Fault Refusal :=
  if s.recFull then .refused .recordsBeyondCapacity
  else .next ((s.putRec s.recCnt r).setRecCnt (s.recCnt + 1))

end Sys2Proof.Machine
end

