-- ==== Sys2Proof/Machine/Operands.lean ====
section
/-! DEFINITION. How a command reads its operands: bytes of the spaces (00_scope.md R12, 20_memory.md R51), the name
and its padding (41_header_encode.md R111, R113), 16-bit fields (R114), the marshaler's two directions (30_encoding.md
R79, 44_decode.md R160), and the views of the results. -/

namespace Sys2Proof.Machine

/-- The cells of a byte space. -/
def State.cells (s : State) : Space → List Host.Cell
  | .inp => s.inMem
  | .name => s.nameMem
  | .out => s.outMem

/-- The byte of a space at an offset: what was written there, else the free value of this reset (log 4). -/
def State.byteAt (s : State) (sp : Space) (a : Nat) : Byte :=
  (Memory.read? (s.cells sp) a).getD (Config.unwrittenByte s.epoch sp a)

/-- `MemRead(S, a, n)` (00_scope.md R12): the `n` bytes from offset `a`, first byte first. -/
def State.memRead (s : State) (sp : Space) (a n : Nat) : List Byte := (List.range' a n).map (s.byteAt sp)

/-- `IN[0 .. IN_LEN-1]` (20_memory.md R51). -/
def State.inBytes (s : State) : List Byte := s.memRead .inp 0 s.inLen

/-- `NAME[0 .. NAME_LEN-1]`. -/
def State.nameBytes (s : State) : List Byte := s.memRead .name 0 s.nameLen

/-- `OUT[0 .. OUT_LEN-1]`. -/
def State.outBytes (s : State) : List Byte := s.memRead .out 0 s.outLen

/-- `REC[i]`, if it has been written. -/
def State.record? (s : State) (i : Nat) : Option BlockRecord := Memory.read? s.recMem i

/-- `REC[0 .. REC_CNT-1]` (20_memory.md R51). -/
def State.records (s : State) : List BlockRecord := (List.range s.recCnt).filterMap s.record?

/-- The bytes of IN the cursor has not passed: `n - x[CUR]` (44_decode.md R150). -/
def State.remaining (s : State) : Nat := s.inLen - s.cur

/-- The cursor past `k` bytes (10_state.md R31). -/
def State.advance (s : State) (k : Nat) : State := s.setCur (s.cur + k)

/-- ASCII: bit 7 is 0 (00_scope.md R13). -/
def isAscii (b : Byte) : Bool := decide (b.toNat < 0x80)

/-- The low 16 bits of a register (`d[15:0]`, 41_header_encode.md R114). -/
def low16 (v : Nat) : U16 := BitVec.ofNat 16 v

/-- Ten bytes, by index. -/
def tenBytes (f : Nat → Byte) : Vector Byte 10 := #v[f 0, f 1, f 2, f 3, f 4, f 5, f 6, f 7, f 8, f 9]

/-- `pad10` (41_header_encode.md R111, 30_encoding.md R88): the first ten bytes at most, then 0x20 up to ten. -/
def pad10 (nm : List Byte) : Vector Byte 10 := tenBytes fun i => nm.getD i 0x20#8

/-- The name check (41_header_encode.md R113), on the whole name. -/
def nameOk (nm : List Byte) : Bool := nm.all isAscii

/-- The 17-byte header payload of five fields (30_encoding.md R74, R79). -/
def headerPayload (ty : Byte) (nm : Vector Byte 10) (dl p1 p2 : U16) : List Byte :=
  [ty] ++ nm.toList ++ le16 dl ++ le16 p1 ++ le16 p2

/-- The payload the field registers hold. -/
def State.fieldPayload (s : State) : List Byte := headerPayload s.hType s.hName s.hDlen s.hP1 s.hP2

/-- Pack (41_header_encode.md R110): the field registers from a name, a data length and a start address; type 0x03
and `param2` 0x0000 (R115). `H_NLEN` is of the decode side only (10_state.md R33). -/
def State.pack (s : State) (nm : List Byte) (d a : Nat) : State :=
  s.setFields 0x03#8 (pad10 nm) (low16 d) (low16 a) 0x0000#16

/-- The header payload `ENC_HDR` and `ENC_TAP` emit for a name, a data length and a start address. -/
def packedPayload (nm : List Byte) (d a : Nat) : List Byte :=
  headerPayload 0x03#8 (pad10 nm) (low16 d) (low16 a) 0x0000#16

/-- The trimming loop of 44_decode.md R160 from `k` down: while the byte before is 0x20, one less. -/
def trimFrom (nm : List Byte) : Nat → Nat
  | 0 => 0
  | k + 1 => if nm.getD k 0x00#8 = 0x20#8 then trimFrom nm k else k + 1

/-- `unpack` (44_decode.md R160) on a 17-byte payload: fails on a non-ASCII filename byte, its one reachable cause
(90_conflicts.md C9), and validates nothing else. -/
def unpack (p : List Byte) : Option Header :=
  let nm := tenBytes fun i => p.getD (1 + i) 0x00#8
  if nm.toList.all isAscii then
    some
      { hType := p.getD 0 0x00#8
        hName := nm
        hNlen := BitVec.ofNat 4 (trimFrom nm.toList 10)
        hDlen := u16le (p.getD 11 0x00#8) (p.getD 12 0x00#8)
        hP1   := u16le (p.getD 13 0x00#8) (p.getD 14 0x00#8)
        hP2   := u16le (p.getD 15 0x00#8) (p.getD 16 0x00#8) }
  else none

/-- The field registers loaded with an unpacked header (R160). -/
def State.loadHeader (s : State) (h : Header) : State :=
  (s.setFields h.hType h.hName h.hDlen h.hP1 h.hP2).setHNlen h.hNlen

end Sys2Proof.Machine

namespace Sys2Proof

/-- `hdr_valid` (10_state.md R37). -/
def BlockRecord.hdrValid (r : BlockRecord) : Bool := r.header.isSome
/-- The `h_*` fields as the host reads them: 0 when `hdr_valid == 0` (10_state.md R37). -/
def BlockRecord.readType (r : BlockRecord) : Byte := (r.header.map Header.hType).getD 0#8
def BlockRecord.readName (r : BlockRecord) : List Byte :=
  (r.header.map fun h => h.hName.toList).getD (List.replicate 10 0#8)
def BlockRecord.readNlen (r : BlockRecord) : BitVec 4 := (r.header.map Header.hNlen).getD 0#4
def BlockRecord.readDlen (r : BlockRecord) : U16 := (r.header.map Header.hDlen).getD 0#16
def BlockRecord.readP1 (r : BlockRecord) : U16 := (r.header.map Header.hP1).getD 0#16
def BlockRecord.readP2 (r : BlockRecord) : U16 := (r.header.map Header.hP2).getD 0#16

/-- The parsed filename, `h_name[0 .. h_nlen-1]` (10_state.md R37, 90_conflicts.md C3). -/
def Header.fileName (h : Header) : List Byte := h.hName.toList.take h.hNlen.toNat

/-- A record framed again: `le16(length) ++ [flag] ++ payload ++ [checksum]` (44_decode.md R167 (b)). -/
def BlockRecord.frame (r : BlockRecord) : List Byte := le16 r.length ++ [r.flag] ++ r.payload ++ [r.checksum]

end Sys2Proof
end

