-- ==== Sys2Proof/Machine/Encode.lean ====
section
/-! DEFINITION. The checksum command and the three encode commands: 40_checksum.md, 41_header_encode.md,
42_data_encode.md, 43_tap_assemble.md. A command whose inputs or outputs exceed a capacity is refused (log 11). -/

namespace Sys2Proof.Machine

/-- `N + 2 > 65535`: the length field would not fit 16 bits (42_data_encode.md R132). -/
def sizeExceeded (n : Nat) : Bool := decide (n + 2 > 65535)

/-- `CSUM` (40_checksum.md R102): absorb every byte of IN, in order. -/
def execCsum (s : State) : Host.Outcome State Fault Refusal :=
  if s.inLen > s.params.inMax then .refused .inputBeyondCapacity
  else
    let s := s.commandStart
    .next (s.absorbSeq s.inBytes).commandEnd

/-- `ENC_HDR` (41_header_encode.md R116). -/
def execEncHdr (s : State) : Host.Outcome State Fault Refusal :=
  if s.nameLen > s.params.nameMax then .refused .nameBeyondCapacity
  else
    let s := s.commandStart
    if nameOk s.nameBytes = false then .next (s.raise .encodingError)
    else if 21 > s.params.outMax then .refused .outputBeyondCapacity
    else
      let s := s.pack s.nameBytes s.aDlen s.aAddr
      .next (s.emitBlock 0x00#8 s.fieldPayload).commandEnd

/-- `ENC_DATA` (42_data_encode.md R133). -/
def execEncData (s : State) : Host.Outcome State Fault Refusal :=
  if s.inLen > s.params.inMax then .refused .inputBeyondCapacity
  else
    let s := s.commandStart
    if sizeExceeded s.inLen then .next (s.raise .sizeExceeded)
    else if s.inLen + 4 > s.params.outMax then .refused .outputBeyondCapacity
    else .next (s.emitBlock 0xFF#8 s.inBytes).commandEnd

/-- `ENC_TAP` (43_tap_assemble.md R142): both checks before the first byte, the name check first (R143); the
header's data length is `IN_LEN` (R141). -/
def execEncTap (s : State) : Host.Outcome State Fault Refusal :=
  if s.inLen > s.params.inMax then .refused .inputBeyondCapacity
  else if s.nameLen > s.params.nameMax then .refused .nameBeyondCapacity
  else
    let s := s.commandStart
    if nameOk s.nameBytes = false then .next (s.raise .encodingError)
    else if sizeExceeded s.inLen then .next (s.raise .sizeExceeded)
    else if s.inLen + 25 > s.params.outMax then .refused .outputBeyondCapacity
    else
      let s := s.pack s.nameBytes s.inLen s.aAddr
      let s := s.emitBlock 0x00#8 s.fieldPayload
      .next (s.emitBlock 0xFF#8 s.inBytes).commandEnd

end Sys2Proof.Machine
end

