-- ==== Sys2Proof/Machine/Reserved.lean ====
section
/-! DEFINITION. The reserved command codes (30_encoding.md R85, 60_exceptions.md R188): the command starts, so
every result is cleared, and raises IllegalCommand. -/

namespace Sys2Proof.Machine

/-- `RESERVED_0`, code 0b000. -/
def execReserved0 (s : State) : Host.Outcome State Fault Refusal := .next (s.commandStart.raise .illegalCommand)

/-- `RESERVED_6`, code 0b110. -/
def execReserved6 (s : State) : Host.Outcome State Fault Refusal := .next (s.commandStart.raise .illegalCommand)

/-- `RESERVED_7`, code 0b111. -/
def execReserved7 (s : State) : Host.Outcome State Fault Refusal := .next (s.commandStart.raise .illegalCommand)

end Sys2Proof.Machine
end

