-- ==== Sys2Proof/Machine/StreamDecode.lean ====
section
/-! DEFINITION. `DEC` and the blocks it walks: 44_decode.md. A block row of the opcode table is one pass of the
loop of rule R150 over a block of that class; `DEC` is the whole loop (log 9). -/

namespace Sys2Proof.Machine

/-- From step 4 of rule R150 on: the record of the block in `LEN`, `FLAG`, `CHK`, with the header parse where it
is asked for (R159), the header or the warning it yields (R160, R161), and the append (R162). -/
def State.recordBlock (s : State) (parse : Bool) (payOff : Nat) (payload : List Byte) :
    Host.Outcome State Fault Refusal :=
  let r : BlockRecord :=
    { length := s.len, flag := s.flag, payOff := payOff, payload := payload, checksum := s.chk,
      header := none, warn := false }
  if parse then
    match unpack payload with
    | some h => (s.loadHeader h).appendRecord { r with header := some h }
    | none =>
      ((s.setWarnCnt (s.warnCnt + 1)).setStatus s.status.warned).appendRecord { r with warn := true }
  else s.appendRecord r

/-- Rule R150 from the underflow check on, `LEN` and `FLAG` loaded and the cursor past them: R155, R156, R157. -/
def State.blockBody (s : State) (parse : Bool) : Host.Outcome State Fault Refusal :=
  if s.len.toNat < 2 then .next (s.raise .malformedBlock)
  else
    let p := s.len.toNat - 2
    if s.remaining < p then .next (s.raise .streamTruncated)
    else
      let payOff := s.cur
      let payload := s.memRead .inp payOff p
      let s := s.advance p
      if s.remaining < 1 then .next (s.raise .streamTruncated)
      else
        let s := (s.setChk (s.byteAt .inp s.cur)).advance 1
        s.recordBlock parse payOff payload

/-- One pass of the loop of rule R150, from `next_block`: the end test (R152), the length field (R153), the flag
(R154), then the body. A pass that ends the scan leaves `BUSY` 0. -/
def State.scanPass (s : State) : Host.Outcome State Fault Refusal :=
  if s.cur = s.inLen then .next s.commandEnd
  else if s.remaining < 2 then .next (s.raise .streamTruncated)
  else
    let s := (s.setLen (u16le (s.byteAt .inp s.cur) (s.byteAt .inp (s.cur + 1)))).advance 2
    if s.remaining < 1 then .next (s.raise .streamTruncated)
    else
      let s := (s.setFlag (s.byteAt .inp s.cur)).advance 1
      s.blockBody (decide (s.flag = 0x00#8 ∧ s.len = 0x0013#16))

/-- The loop: passes until one ends the scan, at most `n` of them. -/
def State.scan : Nat → State → Host.Outcome State Fault Refusal
  | 0, s => .next s
  | n + 1, s =>
    match s.scanPass with
    | .next t => if t.status.busy then State.scan n t else .next t
    | .fault e => .fault e
    | .refused e => .refused e

/-- `DEC` (44_decode.md R150). The bound on the passes is rule R158's, `floor(IN_LEN / 4) + 1`. -/
def execDec (s : State) : Host.Outcome State Fault Refusal :=
  if s.inLen > s.params.inMax then .refused .inputBeyondCapacity
  else s.commandStart.scan (s.inLen / 4 + 1)

/-- A block instruction: its head (length field and flag) at the cursor, then the body. Missing bytes of the head
raise StreamTruncated as in rules R153 and R154 (log 10). -/
def State.runBlock (s : State) (len : U16) (flag : Byte) (parse : Bool) : Host.Outcome State Fault Refusal :=
  if s.remaining < 2 then .next (s.raise .streamTruncated)
  else
    let s := (s.setLen len).advance 2
    if s.remaining < 1 then .next (s.raise .streamTruncated)
    else ((s.setFlag flag).advance 1).blockBody parse

/-- `BLK_ILLEGAL_LEN0` (R155): MalformedBlock. -/
def execBlkIllegalLen0 (flag : Byte) (s : State) : Host.Outcome State Fault Refusal :=
  s.runBlock 0x0000#16 flag false

/-- `BLK_ILLEGAL_LEN1` (R155): MalformedBlock. -/
def execBlkIllegalLen1 (flag : Byte) (s : State) : Host.Outcome State Fault Refusal :=
  s.runBlock 0x0001#16 flag false

/-- `BLK_HDR` (R159): record the block and attempt to parse a header. -/
def execBlkHdr (s : State) : Host.Outcome State Fault Refusal := s.runBlock 0x0013#16 0x00#8 true

/-- `BLK_DATA` (R80, R162): record the block, no header. -/
def execBlkData (len : U16) (s : State) : Host.Outcome State Fault Refusal := s.runBlock len 0xFF#8 false

/-- `BLK_OTHER` (R80, R162): record the block, no header. -/
def execBlkOther (len : U16) (flag : Byte) (s : State) : Host.Outcome State Fault Refusal := s.runBlock len flag false

end Sys2Proof.Machine
end

