-- ==== Sys2Proof/Machine/Dispatch.lean ====
section
/-! DEFINITION. What each instruction means: one arm per constructor of `Instr`. -/

namespace Sys2Proof.Machine

def exec (i : Instr) (s : State) : Host.Outcome State Fault Refusal :=
  match i with
  | .csum => Sys2Proof.Machine.execCsum s
  | .encHdr => Sys2Proof.Machine.execEncHdr s
  | .encData => Sys2Proof.Machine.execEncData s
  | .encTap => Sys2Proof.Machine.execEncTap s
  | .dec => Sys2Proof.Machine.execDec s
  | .reserved0 => Sys2Proof.Machine.execReserved0 s
  | .reserved6 => Sys2Proof.Machine.execReserved6 s
  | .reserved7 => Sys2Proof.Machine.execReserved7 s
  | .blkIllegalLen0 flag => Sys2Proof.Machine.execBlkIllegalLen0 flag s
  | .blkIllegalLen1 flag => Sys2Proof.Machine.execBlkIllegalLen1 flag s
  | .blkHdr => Sys2Proof.Machine.execBlkHdr s
  | .blkData len => Sys2Proof.Machine.execBlkData len s
  | .blkOther len flag => Sys2Proof.Machine.execBlkOther len flag s

end Sys2Proof.Machine
end

