-- ==== Sys2Proof/Machine/HostPort.lean ====
section
/-! DEFINITION. The host interface (10_state.md R20 to R30, 20_memory.md R50, 60_exceptions.md R194,
70_reset_and_hazards.md R210 to R218), the fetch of a block, and how a program word is placed. -/

namespace Sys2Proof.Machine

/-! ## Registers by index -/

/-- A host write to register `idx` of the map of rule R20. While `BUSY` it is ignored (R216); so is a write to a
register not marked `W` and to an index of 10 or above. A write to `CMD` is in `hostAct`. -/
def State.writeReg (s : State) (idx v : Nat) : State :=
  if s.status.busy then s
  else
    match idx with
    | 2 => s.setADlen v
    | 3 => s.setAAddr v
    | 4 => s.setInLen v
    | 5 => s.setNameLen v
    | _ => s

/-- What a host read of register `idx` returns while the block is idle (R20): a register not marked `R` and an
index of 10 or above read 0. -/
def State.readReg (s : State) (idx : Nat) : Nat :=
  match idx with
  | 1 => s.status.toByte.toNat
  | 2 => s.aDlen
  | 3 => s.aAddr
  | 4 => s.inLen
  | 5 => s.nameLen
  | 6 => s.outLen
  | 7 => s.recCnt
  | 8 => s.warnCnt
  | 9 => s.acc.toNat
  | _ => 0

/-- The result registers, whose reads while `BUSY` are unspecified (R218): `OUT_LEN`, `REC_CNT`, `WARN_CNT`, `ACC`. -/
def isResultReg (idx : Nat) : Bool := decide (6 ≤ idx ∧ idx ≤ 9)

/-- The width of a result register: `ACC` 8 bits, the others `ARGW` (R20). -/
def State.regWidth (s : State) (idx : Nat) : Nat := if idx = 9 then 8 else s.params.argw

/-- A host register read. While `BUSY` a result register returns a free value of its width (R218, U11; log 6);
`STATUS` "is always readable". -/
def State.hostReadReg (s : State) (idx : Nat) : State :=
  if s.status.busy && isResultReg idx then
    (s.setReply (.word (Config.freeWord s.free % 2 ^ s.regWidth idx))).bumpFree
  else s.setReply (.word (s.readReg idx))

/-! ## The spaces -/

/-- A byte of IN has changed under a scan under way. What the scan reads there from now on is "an unspecified mixture of
old and new bytes" (R217), "any value" (U11): a free value, new for each write. A block already recorded stays as it is
(10_state.md R36), and the cursor never goes back to it (R31). Nothing is noted while the block is idle (log 13). -/
def State.noteMoved (s : State) (off : Nat) : State :=
  if s.status.busy then (s.putMoved off (Config.freeByte s.free)).bumpFree else s

/-- A host write of a byte of IN. The byte is there for the host and for every later command (R50, R62); a scan under way
is another matter (R217). No offset past the capacity (log 12). -/
def State.hostWriteIn (s : State) (off : Nat) (b : Byte) : Host.Outcome State Fault Refusal :=
  if s.params.inMax ≤ off then .fault .offsetOutsideSpace
  else .next ((s.noteMoved off).putIn off b)

/-- A host write of a byte of NAME. A scan, the one command ever under way between steps, does not read NAME
(20_memory.md R59), so the write is the same while `BUSY`. -/
def State.hostWriteName (s : State) (off : Nat) (b : Byte) : Host.Outcome State Fault Refusal :=
  if s.params.nameMax ≤ off then .fault .offsetOutsideSpace
  else .next (s.putName off b)

/-- A host read of a byte. IN and NAME read back (R50). OUT reads its valid content while the block is idle; past
`OUT_LEN`, or while `BUSY`, a free value (R51, U10, R218; log 6). -/
def State.hostReadByte (s : State) (sp : Space) (off : Nat) : Host.Outcome State Fault Refusal :=
  match sp with
  | .inp =>
    if s.params.inMax ≤ off then .fault .offsetOutsideSpace else .next (s.setReply (.byte (s.byteAt .inp off)))
  | .name =>
    if s.params.nameMax ≤ off then .fault .offsetOutsideSpace else .next (s.setReply (.byte (s.byteAt .name off)))
  | .out =>
    if s.status.busy = false ∧ off < s.outLen then .next (s.setReply (.byte (s.byteAt .out off)))
    else .next (s.setReply (.byte (Config.freeByte s.free))).bumpFree

/-- A host read of a record: valid below `REC_CNT` while the block is idle, else a free value (R51, U10, R218; log 6). -/
def State.hostReadRec (s : State) (i : Nat) : State :=
  if s.status.busy = false ∧ i < s.recCnt then
    s.setReply (.record ((s.record? i).getD (Config.freeRecord s.free)))
  else (s.setReply (.record (Config.freeRecord s.free))).bumpFree

/-! ## Reset and the host's actions -/

/-- The reset input (R210), at any time: the reset state, with the parameters and the host's side of the interface
kept. What the spaces hold is unspecified afresh, so nothing is listed and the free values are new ones (log 5). -/
def State.hostReset (s : State) : State :=
  { State.reset with
    params := s.params, host := s.host, reply := s.reply, epoch := s.epoch + 1, free := s.free }

/-- A write to `CMD` (R21): ignored while `BUSY` (R216), else the command of the low three bits runs. -/
def State.writeCmd (s : State) (v : Nat) : Host.Outcome State Fault Refusal :=
  if s.status.busy then .next s else exec (decodeCode (BitVec.ofNat 3 v)) s

/-- One host action. -/
def State.hostAct (s : State) (a : HostAction) : Host.Outcome State Fault Refusal :=
  match a with
  | .reset => .next s.hostReset
  | .writeReg 0 v => s.writeCmd v
  | .writeReg idx v => .next (s.writeReg idx v)
  | .readReg idx => .next (s.hostReadReg idx)
  | .writeIn off b => s.hostWriteIn off b
  | .writeName off b => s.hostWriteName off b
  | .readByte sp off => s.hostReadByte sp off
  | .readRec i => .next (s.hostReadRec i)

/-! ## The scan under way -/

/-- The bytes at the cursor, up to a whole head. -/
def State.headBytes (s : State) : List Byte := s.memRead .inp s.cur (min 3 s.remaining)

/-- The next block of a scan (`BUSY` 1): the end of the stream ends the command (R152); else the head at the cursor is
decoded and its instruction runs. A head cut short is StreamTruncated (R153, R154). -/
def State.scanBlock (s : State) : Host.Outcome State Fault Refusal :=
  if s.cur = s.inLen then .next s.commandEnd
  else
    match decode .framedBlock s.headBytes with
    | .ok (i, _) => exec i s
    | .error (.noFlag len) => .next (((s.setLen len).advance 2).raise .streamTruncated)
    | .error _ => .next (s.raise .streamTruncated)

/-- The state as the scan under way reads it: IN with the bytes that moved under it (R217; log 13). -/
def State.scanned (s : State) : State :=
  { s with inMem := Memory.writeCells s.inMem s.moved }

/-- From what the scan made of `s.scanned`, the state: IN is what the host wrote there, and what moved is forgotten when
the command has ended. -/
def State.settle (s t : State) : State :=
  { t with inMem := s.inMem, moved := if t.status.busy then s.moved else [] }

/-- `settle` of an outcome. -/
def State.settled (s : State) : Host.Outcome State Fault Refusal → Host.Outcome State Fault Refusal
  | .next t => .next (s.settle t)
  | .fault e => .fault e
  | .refused r => .refused r

/-- One step of a scan under way: the next block, of IN as the scan reads it. -/
def State.scanStep (s : State) : Host.Outcome State Fault Refusal := s.settled s.scanned.scanBlock

/-- The next thing that happens: the host's next action; with none to come, the next block of a scan under way;
else nothing (R212, 60_exceptions.md R196: idle, "keeps all state"; log 8). -/
def State.stepOnce (s : State) : Host.Outcome State Fault Refusal :=
  match s.host with
  | a :: rest => (s.setHost rest).hostAct a
  | [] => if s.status.busy then s.scanStep else .next s

/-! ## Placing an instruction -/

/-- A command comes next: the block idle, and the host about to write `w` to `CMD`. -/
def State.placeCommand (s : State) (w : Nat) : State :=
  { s with status := { s.status with busy := false }, moved := [], host := .writeReg 0 w :: s.host }

/-- The cells of a run of contents from an offset on. -/
def Memory.cellsFrom {α : Type} : Nat → List α → List (Nat × α)
  | _, [] => []
  | a, v :: vs => (a, v) :: Memory.cellsFrom (a + 1) vs

/-- A run of contents stored from an offset on, in place of what stood there. One pass, where a write at a time would
take a pass for each. -/
def Memory.splice {α : Type} (m : List (Nat × α)) (a : Nat) (vs : List α) : List (Nat × α) :=
  m.filter (fun c => c.1 < a) ++ (Memory.cellsFrom a vs ++ m.filter (fun c => a + vs.length ≤ c.1))

/-- Bytes stored in IN from an offset on. -/
def State.putInSeq (s : State) (a : Nat) (bs : List Byte) : State := { s with inMem := Memory.splice s.inMem a bs }

/-- A block comes next: a scan under way, no host action before it, and at the cursor the head `w` with zero bytes
for its payload and checksum, IN ending there (log 17). -/
def State.placeBlock (s : State) (w : Nat) : State :=
  let n := max 3 (w % 65536 + 2)
  let s := { s with status := { s.status with busy := true }, moved := [], host := [] }
  (s.putInSeq s.cur (wordBytes 3 w ++ List.replicate (n - 3) 0x00#8)).setInLen (s.cur + n)

/-- A table word placed where the next step fetches. -/
def State.placeWord (s : State) (nbits w : Nat) : State :=
  match tableFormat nbits with
  | .cmd3 => s.placeCommand (w % 2 ^ nbits)
  | .framedBlock => s.placeBlock (w % 2 ^ nbits % 2 ^ 24)

/-! ## Host scripts (30_encoding.md R87): each statement as the actions it is shorthand for -/

/-- `SET <reg>, <value>` -/
def Script.set (idx v : Nat) : List HostAction := [.writeReg idx v]

/-- The byte writes of a `LOAD`. -/
def Script.bytes (w : Nat → Byte → HostAction) (a : Nat) : List Byte → List HostAction
  | [] => []
  | b :: bs => w a b :: Script.bytes w (a + 1) bs

/-- `LOAD IN, <bytes>` -/
def Script.loadIn (bs : List Byte) : List HostAction := Script.bytes .writeIn 0 bs ++ [.writeReg 4 bs.length]

/-- `LOAD NAME, <bytes>` -/
def Script.loadName (bs : List Byte) : List HostAction := Script.bytes .writeName 0 bs ++ [.writeReg 5 bs.length]

/-- `MOVE IN, OUT`: what a host writes that has read OUT from this state. -/
def Script.moveInOut (s : State) : List HostAction := Script.loadIn s.outBytes

/-- A command statement, or `CMD <code>`: a raw write to `CMD`. -/
def Script.cmd (code : Nat) : List HostAction := [.writeReg 0 code]

end Sys2Proof.Machine
end

