-- ==== Sys2Proof/Machine/Step.lean ====
section
/-! DEFINITION. The step, and where the next instruction is placed. Both only call HostPort.lean. -/

namespace Sys2Proof.Machine

/-- One step: a host action, a block of a scan under way, or nothing. A command, whole, is one step (10_state.md
R39, 92_eei_decisions.md D1). -/
def step (s : State) : Host.Outcome State Fault Refusal := s.stepOnce

/-- The state with a table word placed where `step` fetches its next instruction. -/
def State.withFetchWord (s : State) (nbits w : Nat) : State := s.placeWord nbits w

end Sys2Proof.Machine
end

