-- ==== Sys2Proof/Safety.lean ====
section
/-! DEFINITION. What a good state is: the invariants the spec states (10_state.md R22, R31, R37, 20_memory.md R51,
44_decode.md R158), and the words claims use: the records of a list of frames, and states that agree. -/

namespace Sys2Proof

/-- The invariants of a record (10_state.md R37), with its header tied to its payload (44_decode.md R160). -/
structure BlockRecord.Ok (r : BlockRecord) : Prop where
  lengthTwo     : 2 ≤ r.length.toNat
  payloadLength : r.payload.length + 2 = r.length.toNat
  headerOnly    : ∀ h, r.header = some h → r.flag = 0x00#8 ∧ r.length = 0x0013#16 ∧ r.warn = false
  headerFields  : ∀ h, r.header = some h → Machine.unpack r.payload = some h
  warnOnly      : r.warn = true → r.flag = 0x00#8 ∧ r.length = 0x0013#16 ∧ r.header = none
  nlenTen       : ∀ h, r.header = some h → h.hNlen.toNat ≤ 10

end Sys2Proof

namespace Sys2Proof.Machine

/-- `STATUS` after a command that ended without a fault and without a warning: 0x02. -/
def Status.success : Status := { busy := false, done := true, warn := false, err := 0#3 }

/-- `STATUS` after a command that ended in a fault. -/
def Status.faulted (f : TapFault) : Status := { busy := false, done := true, warn := false, err := f.code }

/-- The invariant of every state of a run. -/
structure State.Inv (s : State) : Prop where
  /-- 00_scope.md R9 -/
  legal     : s.params.Legal
  /-- every `ARGW`-bit register is below `2^ARGW` -/
  widths    : s.aDlen < 2 ^ s.params.argw ∧ s.aAddr < 2 ^ s.params.argw ∧ s.inLen < 2 ^ s.params.argw ∧
              s.nameLen < 2 ^ s.params.argw ∧ s.outLen < 2 ^ s.params.argw ∧ s.recCnt < 2 ^ s.params.argw ∧
              s.warnCnt < 2 ^ s.params.argw ∧ s.cur < 2 ^ s.params.argw
  /-- the spaces keep their canonical form -/
  memWf     : Memory.wf s.inMem = true ∧ Memory.wf s.nameMem = true ∧ Memory.wf s.outMem = true ∧
              Memory.wf s.recMem = true
  /-- fault codes 6 and 7 are "never produced" (60_exceptions.md R181) -/
  errCode   : s.status.err.toNat ≤ 5
  /-- R22: "`ERR != 0` implies …" -/
  errClear  : s.status.err ≠ 0#3 →
              s.status.warn = false ∧ s.outLen = 0 ∧ s.recCnt = 0 ∧ s.warnCnt = 0 ∧ s.acc = 0x00#8
  /-- R22: "`WARN == 1` if and only if `WARN_CNT > 0`" -/
  warnIff   : s.status.warn = true ↔ 0 < s.warnCnt
  /-- R29: `WARN_CNT` is "the number of records … with `warn == 1`" -/
  warnCount : s.warnCnt = s.records.countP BlockRecord.warn
  /-- R51: the records below `REC_CNT` are written, and each keeps R37 -/
  recValid  : ∀ i < s.recCnt, ∃ r, s.record? i = some r ∧ r.Ok
  /-- R51: the bytes of OUT below `OUT_LEN` are written -/
  outValid  : ∀ i < s.outLen, (Memory.read? s.outMem i).isSome = true
  /-- R33: `H_NLEN` is in 0..10 -/
  nlenTen   : s.hNlen.toNat ≤ 10
  /-- a scan under way: no result of another kind, the cursor within the stream (R31, R158), and at least four
  bytes behind it for each record -/
  scanning  : s.status.busy = true →
              s.status.done = false ∧ s.status.err = 0#3 ∧ s.outLen = 0 ∧ s.acc = 0x00#8 ∧ s.cur ≤ s.inLen ∧
              s.inLen ≤ s.params.inMax ∧ 4 * s.recCnt ≤ s.cur
  /-- the model's own: what moved under a scan is in canonical form, and is forgotten when the scan has ended (log 13) -/
  movedOk   : Memory.wf s.moved = true ∧ (s.status.busy = false → s.moved = [])

/-- What a framed block carries besides its length: flag, payload, and the checksum byte as it stands. -/
structure Frame where
  flag     : Byte
  payload  : List Byte
  checksum : Byte
deriving DecidableEq, Repr

/-- The bytes of a frame, `BLKX(flag, payload, chk)` of 30_encoding.md R88. -/
def Frame.bytes (f : Frame) : List Byte :=
  le16 (BitVec.ofNat 16 (f.payload.length + 2)) ++ [f.flag] ++ f.payload ++ [f.checksum]

/-- A frame is header-shaped: flag 0x00 and length 0x13 (R80). -/
def Frame.headerShaped (f : Frame) : Bool := f.flag == 0x00#8 && f.payload.length == 17

/-- The record `DEC` makes of a frame that starts at an offset (44_decode.md R150, R159 to R162). -/
def Frame.record (f : Frame) (off : Nat) : BlockRecord where
  length   := BitVec.ofNat 16 (f.payload.length + 2)
  flag     := f.flag
  payOff   := off + 3
  payload  := f.payload
  checksum := f.checksum
  header   := if f.headerShaped then unpack f.payload else none
  warn     := f.headerShaped && (unpack f.payload).isNone

/-- The records of frames that follow one another from an offset on. -/
def recordsFrom : Nat → List Frame → List BlockRecord
  | _, [] => []
  | off, f :: fs => f.record off :: recordsFrom (off + (f.payload.length + 4)) fs

/-- A record with its payload offset moved on. -/
def shiftRecord (k : Nat) (r : BlockRecord) : BlockRecord := { r with payOff := r.payOff + k }

/-- What a byte of a space holds after a list of host actions that began with `v` there: the last byte written to that
offset, else `v` (20_memory.md R50: the host "reads what it wrote"). -/
def lastWritten (sp : Space) (a : Nat) (v : Byte) : List HostAction → Byte
  | [] => v
  | .writeIn c b :: rest => lastWritten sp a (if sp = .inp ∧ c = a then b else v) rest
  | .writeName c b :: rest => lastWritten sp a (if sp = .name ∧ c = a then b else v) rest
  | _ :: rest => lastWritten sp a v rest

/-- The two states show the host the same results: `STATUS`, `ACC`, OUT, the records, and their counts. -/
structure SameResults (s t : State) : Prop where
  status  : s.status = t.status
  acc     : s.acc = t.acc
  out     : s.outBytes = t.outBytes
  recCnt  : s.recCnt = t.recCnt
  records : s.records = t.records
  warnCnt : s.warnCnt = t.warnCnt

/-- The two states give a command the same operands: exactly the ones its row of the table of 30_encoding.md R86 reads.
A reserved code reads none; a block is no command. -/
def SameOperands (i : Instr) (s t : State) : Prop :=
  match i with
  | .csum | .encData | .dec => s.inBytes = t.inBytes
  | .encHdr => s.nameBytes = t.nameBytes ∧ s.aDlen = t.aDlen ∧ s.aAddr = t.aAddr
  | .encTap => s.nameBytes = t.nameBytes ∧ s.aAddr = t.aAddr ∧ s.inBytes = t.inBytes
  | .reserved0 | .reserved6 | .reserved7 => True
  | .blkIllegalLen0 _ | .blkIllegalLen1 _ | .blkHdr | .blkData _ | .blkOther _ _ => False

end Sys2Proof.Machine
end

