-- ==== Sys2Proof/Certificates/Slice0/Obligations.lean ====
section
/-! DEFINITION. The statements for the provers. -/

open Sys2Proof Sys2Proof.Machine

/-! ## Encodings (30_encoding.md) -/

/-- Decoding an encoded well-formed instruction gives it back, whatever bytes follow it: every operand of every row,
at every value the encoding admits. -/
def Obligations.DecodeOfEncodeIsIdentity : Prop :=
  ∀ i : Instr, i.wellFormed = true → ∀ rest : List Byte, decode i.format (encode i ++ rest) = .ok (i, rest)

/-- What the decoder gives is well-formed and of the format asked for. A block's head is given back by the encoder
byte for byte; of a command byte the low three bits are (10_state.md R21: "bits of the written value above bit 2 are
ignored"). -/
def Obligations.DecodedInstructionIsWellFormed : Prop :=
  ∀ (fmt : Format) (bytes rest : List Byte) (i : Instr), decode fmt bytes = .ok (i, rest) →
    i.wellFormed = true ∧ i.format = fmt ∧
    (fmt = .framedBlock → encode i ++ rest = bytes) ∧
    (fmt = .cmd3 → ∃ b, bytes = b :: rest ∧ encode i = [b &&& 0x07#8])

/-- The decoder is the opcode table: a command code decodes to the row it matches, and a block's head
`W = length + 65536 * flag` to the first row that matches in order of priority (R80, R82, R84, R85). -/
def Obligations.DecoderIsFirstMatchingRow : Prop :=
  (∀ c : BitVec 3, firstRow cmdRows c.toNat = some (decodeCode c).mnemonic) ∧
  (∀ (len : U16) (flag : Byte),
    firstRow blockRows (len.toNat + 65536 * flag.toNat) = some (classify len flag).mnemonic)

/-- Words written out from the spec's encodings (R84, R70, R75, R80) decode to the instructions they stand for. -/
def Obligations.SpecWordsDecode : Prop :=
  decodeTableWord 8 0b00000001 = some .csum ∧ decodeTableWord 8 0b00000101 = some .dec ∧
  decodeTableWord 8 0b00000110 = some .reserved6 ∧
  decodeTableWord 24 0x000013 = some .blkHdr ∧ decodeTableWord 24 0xFF0006 = some (.blkData 0x0006#16) ∧
  decodeTableWord 24 0x420003 = some (.blkOther 0x0003#16 0x42#8) ∧
  decodeTableWord 24 0xAA0001 = some (.blkIllegalLen1 0xAA#8)

/-! ## The checksum accumulator (40_checksum.md) -/

/-- R103: identity, self-inverse, commutative, associative, concatenation, order independence, one byte, and a byte
value repeated `k` times contributes itself when `k` is odd and nothing when it is even. -/
def Obligations.XorFoldLaws : Prop :=
  (∀ a : Byte, a ^^^ 0x00#8 = a) ∧ (∀ a : Byte, a ^^^ a = 0x00#8) ∧
  (∀ a b : Byte, a ^^^ b = b ^^^ a) ∧ (∀ a b c : Byte, (a ^^^ b) ^^^ c = a ^^^ (b ^^^ c)) ∧
  (∀ s t : List Byte, xorFold (s ++ t) = xorFold s ^^^ xorFold t) ∧
  (∀ s t : List Byte, s.Perm t → xorFold s = xorFold t) ∧
  (∀ b : Byte, xorFold [b] = b) ∧
  (∀ (b : Byte) (k : Nat), xorFold (List.replicate k b) = if k % 2 = 0 then 0x00#8 else b) ∧
  (∀ (b : Byte) (s : List Byte), s.count b % 2 = 0 → xorFold (s.filter (· != b)) = xorFold s)

/-- R104: the residue of a block body is 0 exactly when its checksum is right; every block an encoder emits (both blocks
of `ENC_TAP`) has residue 0; and `CSUM` over a block body in IN tells the two apart. -/
def Obligations.ResidueIsZeroExactlyWhenWellFormed : Prop :=
  (∀ (flag chk : Byte) (payload : List Byte),
    xorFold ([flag] ++ payload ++ [chk]) = 0x00#8 ↔ chk = xorFold ([flag] ++ payload)) ∧
  (∀ s t : State, s.params.Legal → t.status = .success →
    (exec .encHdr s = .next t ∨ exec .encData s = .next t → xorFold (t.outBytes.drop 2) = 0x00#8) ∧
    (exec .encTap s = .next t →
      xorFold ((t.outBytes.take 21).drop 2) = 0x00#8 ∧ xorFold (t.outBytes.drop 23) = 0x00#8)) ∧
  (∀ (s : State) (flag chk : Byte) (payload : List Byte),
    s.inLen ≤ s.params.inMax → s.inBytes = [flag] ++ payload ++ [chk] →
    ∃ t, exec .csum s = .next t ∧ (t.acc = 0x00#8 ↔ chk = xorFold ([flag] ++ payload)))

/-- `CSUM` (R102) completes for every input within the capacity: `ACC` is the fold of `IN[0 .. IN_LEN-1]`, left to
right from 0, and no fault or other result is there. The capacity is rule R221's. -/
def Obligations.CsumFoldsTheInput : Prop :=
  ∀ s : State, s.inLen ≤ s.params.inMax →
    ∃ t, exec .csum s = .next t ∧
      t.acc = (List.range s.inLen).foldl (fun a i => a ^^^ s.byteAt .inp i) 0x00#8 ∧
      t.status = .success ∧ t.outLen = 0 ∧ t.recCnt = 0 ∧ t.warnCnt = 0

/-! ## The encoders (41_header_encode.md, 42_data_encode.md, 43_tap_assemble.md) -/

/-- `ENC_HDR` completes on an all-ASCII name and emits the 21 bytes of R112: the length 0x0013, the flag 0x00, the type
3, the name cut or padded to ten bytes (R111), the low halves of `A_DLEN` and `A_ADDR` (R114), two zero bytes (R115), and
the fold of the 18 bytes from the flag on. -/
def Obligations.EncHdrEmitsTheHeaderBlock : Prop :=
  ∀ s : State, s.params.Legal → s.nameLen ≤ s.params.nameMax → 21 ≤ s.params.outMax →
    (∀ i < s.nameLen, (s.byteAt .name i).toNat < 0x80) →
    ∃ t body, exec .encHdr s = .next t ∧
      body = [0x00#8, 0x03#8] ++
        (List.range 10).map (fun i => if i < min s.nameLen 10 then s.byteAt .name i else 0x20#8) ++
        [BitVec.ofNat 8 (s.aDlen % 65536), BitVec.ofNat 8 (s.aDlen % 65536 / 256),
         BitVec.ofNat 8 (s.aAddr % 65536), BitVec.ofNat 8 (s.aAddr % 65536 / 256), 0x00#8, 0x00#8] ∧
      t.outBytes = [0x13#8, 0x00#8] ++ body ++ [xorFold body] ∧
      t.outLen = 21 ∧ t.acc = xorFold body ∧ t.status = .success ∧ t.recCnt = 0 ∧ t.warnCnt = 0

/-- R113: any byte of the whole name at or above 0x80 makes `ENC_HDR` raise EncodingError, whatever its place, and no
byte of OUT is written. -/
def Obligations.EncHdrRejectsNonAsciiNames : Prop :=
  ∀ s : State, s.nameLen ≤ s.params.nameMax →
    (∃ i < s.nameLen, 0x80 ≤ (s.byteAt .name i).toNat) →
    ∃ t, exec .encHdr s = .next t ∧ t.status = .faulted .encodingError ∧
      t.outLen = 0 ∧ t.acc = 0x00#8 ∧ ∀ a, t.byteAt .out a = s.byteAt .out a

/-- What `ENC_HDR` emits depends on the first ten bytes of the name and on the low 16 bits of its two operands only
(R111 "silently truncates", R114 "silently wrap"). -/
def Obligations.EncHdrSeesTenNameBytesAndLowHalves : Prop :=
  ∀ s u t v : State, s.params.Legal → u.params.Legal →
    s.nameBytes.take 10 = u.nameBytes.take 10 →
    s.aDlen % 65536 = u.aDlen % 65536 → s.aAddr % 65536 = u.aAddr % 65536 →
    exec .encHdr s = .next t → exec .encHdr u = .next v →
    t.status = .success → v.status = .success → t.outBytes = v.outBytes ∧ t.acc = v.acc

/-- `ENC_DATA` completes on a payload of at most 65533 bytes (R132, R133): length field `N + 2` little-endian, flag 0xFF,
the payload verbatim, and the fold of the flag and the payload. -/
def Obligations.EncDataEmitsTheDataBlock : Prop :=
  ∀ s : State, s.params.Legal → s.inLen ≤ s.params.inMax → s.inLen ≤ 65533 → s.inLen + 4 ≤ s.params.outMax →
    ∃ t, exec .encData s = .next t ∧
      t.outBytes = [BitVec.ofNat 8 (s.inLen + 2), BitVec.ofNat 8 ((s.inLen + 2) / 256), 0xFF#8] ++ s.inBytes ++
        [xorFold (0xFF#8 :: s.inBytes)] ∧
      t.outLen = s.inLen + 4 ∧ t.acc = xorFold (0xFF#8 :: s.inBytes) ∧ t.status = .success ∧
      t.recCnt = 0 ∧ t.warnCnt = 0

/-- R132: a payload of 65534 bytes or more makes `ENC_DATA` raise SizeExceeded, and no byte of OUT is written. -/
def Obligations.EncDataRejectsOversizedPayloads : Prop :=
  ∀ s : State, s.inLen ≤ s.params.inMax → 65534 ≤ s.inLen →
    ∃ t, exec .encData s = .next t ∧ t.status = .faulted .sizeExceeded ∧
      t.outLen = 0 ∧ t.acc = 0x00#8 ∧ ∀ a, t.byteAt .out a = s.byteAt .out a

/-- `ENC_TAP` completes (R142) and is the composite of R89: its output is what `ENC_HDR` emits with `IN_LEN` in place of
`A_DLEN`, then what `ENC_DATA` emits; `ACC` keeps the data block's checksum. -/
def Obligations.EncTapIsHeaderThenData : Prop :=
  ∀ s : State, s.params.Legal → s.inLen ≤ s.params.inMax → s.nameLen ≤ s.params.nameMax →
    (∀ i < s.nameLen, (s.byteAt .name i).toNat < 0x80) → s.inLen ≤ 65533 → s.inLen + 25 ≤ s.params.outMax →
    ∃ t h d, exec .encTap s = .next t ∧ exec .encHdr { s with aDlen := s.inLen } = .next h ∧
      exec .encData s = .next d ∧ t.outBytes = h.outBytes ++ d.outBytes ∧ h.outLen = 21 ∧
      t.outLen = s.inLen + 25 ∧ t.acc = d.acc ∧ t.status = .success ∧ t.recCnt = 0 ∧ t.warnCnt = 0

/-- R143: `ENC_TAP` makes both checks before the first byte, the name check first: a bad name is EncodingError whatever
`IN_LEN`, a good name with `IN_LEN >= 65534` is SizeExceeded; either leaves `OUT_LEN` 0 and OUT as it was. -/
def Obligations.EncTapChecksNameThenSize : Prop :=
  ∀ s : State, s.inLen ≤ s.params.inMax → s.nameLen ≤ s.params.nameMax →
    ((∃ i < s.nameLen, 0x80 ≤ (s.byteAt .name i).toNat) →
      ∃ t, exec .encTap s = .next t ∧ t.status = .faulted .encodingError ∧ t.outLen = 0 ∧
        ∀ a, t.byteAt .out a = s.byteAt .out a) ∧
    ((∀ i < s.nameLen, (s.byteAt .name i).toNat < 0x80) → 65534 ≤ s.inLen →
      ∃ t, exec .encTap s = .next t ∧ t.status = .faulted .sizeExceeded ∧ t.outLen = 0 ∧
        ∀ a, t.byteAt .out a = s.byteAt .out a)

/-! ## The stream decoder (44_decode.md) -/

/-- `DEC` completes on every stream that is a sequence of framed blocks, with any flags, payloads and checksum bytes, and
makes exactly their records: in stream order, headers unpacked where R159 asks, a warning where unpacking fails (R161),
no checksum compared (R163), nothing paired (R164). -/
def Obligations.DecRecordsEveryFrame : Prop :=
  ∀ (s : State) (fs : List Frame), s.params.Legal → s.inLen < 2 ^ s.params.argw → s.inLen ≤ s.params.inMax →
    (∀ f ∈ fs, f.payload.length ≤ 65533) → s.inBytes = fs.flatMap Frame.bytes →
    (∀ m, s.params.recMax = some m → fs.length ≤ m) →
    ∃ t, exec .dec s = .next t ∧ t.records = recordsFrom 0 fs ∧ t.recCnt = fs.length ∧
      t.warnCnt = (recordsFrom 0 fs).countP BlockRecord.warn ∧
      t.status = { busy := false, done := true, warn := (recordsFrom 0 fs).any BlockRecord.warn, err := 0#3 } ∧
      t.outLen = 0 ∧ t.acc = 0x00#8

/-- R167 (b): when `DEC` ends without a fault, the framed blocks of the records tile IN exactly, the first payload is at
offset 3 and each next one where the block before it ends. -/
def Obligations.DecSuccessTilesTheStream : Prop :=
  ∀ s t : State, s.params.Legal → s.inLen < 2 ^ s.params.argw → exec .dec s = .next t → t.status.err = 0#3 →
    t.records.length = t.recCnt ∧ t.records.flatMap BlockRecord.frame = s.inBytes ∧
    (∀ r, t.records[0]? = some r → r.payOff = 3) ∧
    (∀ i r q, t.records[i]? = some r → t.records[i + 1]? = some q → q.payOff = r.payOff + r.length.toNat + 2) ∧
    (∀ r, t.records.getLast? = some r → r.payOff + r.length.toNat - 1 = s.inLen)

/-- `DEC` always ends (R158, R224): within the capacities it answers a next state that is idle and done, its fault code
is none, StreamTruncated or MalformedBlock, a fault leaves nothing (R165), and the records are at most
`floor(IN_LEN / 4)`. -/
def Obligations.DecAlwaysEnds : Prop :=
  ∀ s : State, s.params.Legal → s.inLen < 2 ^ s.params.argw → s.inLen ≤ s.params.inMax →
    (∀ m, s.params.recMax = some m → s.inLen / 4 ≤ m) →
    ∃ t, exec .dec s = .next t ∧ t.status.busy = false ∧ t.status.done = true ∧
      (t.status.err = 0#3 ∨ t.status = .faulted .streamTruncated ∨ t.status = .faulted .malformedBlock) ∧
      (t.status.err ≠ 0#3 → t.recCnt = 0 ∧ t.warnCnt = 0) ∧
      t.recCnt ≤ s.inLen / 4 ∧ t.outLen = 0 ∧ t.acc = 0x00#8

/-- R168: one step of a scan under way, by the bytes remaining `r` and the length field `L`. Nothing left ends the scan;
a head cut short and a block cut short are StreamTruncated; a length below 2 is MalformedBlock; a whole block is
accepted and the cursor moves past it. IN is taken as the scan reads it, `s.scanned`, which is `s` where the host kept
IN still. (That a block is a step of its own, and what moved, are the model's form, logs 9 and 13.) -/
def Obligations.ScanStepByBytesRemaining : Prop :=
  ∀ s : State, s.Inv → s.status.busy = true → s.host = [] → s.recFull = false →
    let r := s.inLen - s.cur
    let l := (u16le (s.scanned.byteAt .inp s.cur) (s.scanned.byteAt .inp (s.cur + 1))).toNat
    (r = 0 → ∃ t, step s = .next t ∧ t.status.busy = false ∧ t.status.done = true ∧ t.status.err = 0#3 ∧
      t.recCnt = s.recCnt ∧ t.records = s.records) ∧
    (r = 1 ∨ r = 2 → ∃ t, step s = .next t ∧ t.status = .faulted .streamTruncated ∧ t.recCnt = 0) ∧
    (3 ≤ r → l < 2 → ∃ t, step s = .next t ∧ t.status = .faulted .malformedBlock ∧ t.recCnt = 0) ∧
    (3 ≤ r → 2 ≤ l → r - 2 < l → ∃ t, step s = .next t ∧ t.status = .faulted .streamTruncated ∧ t.recCnt = 0) ∧
    (3 ≤ r → 2 ≤ l → l ≤ r - 2 → ∃ t, step s = .next t ∧ t.status.busy = true ∧ t.cur = s.cur + 2 + l ∧
      t.recCnt = s.recCnt + 1)

/-- The atomic `DEC` of 10_state.md R39 is the block-by-block walk of 44_decode.md R150: from the command start, stepping
through the blocks one instruction at a time reaches, within `floor(IN_LEN / 4) + 1` steps (R158), exactly what `exec`
answers in one. IN is still, as R52 takes it: nothing moved. That block instructions are steps is the model's form
(log 9). -/
def Obligations.AtomicDecIsTheWalkOfItsBlocks : Prop :=
  ∀ s : State, s.params.Legal → s.inLen < 2 ^ s.params.argw → s.inLen ≤ s.params.inMax → s.host = [] →
    s.moved = [] → Host.Core.run Sys2Proof.core (s.inLen / 4 + 1) s.commandStart = exec .dec s

/-- R167 (c): if two streams both decode, their concatenation decodes to the records of the first and then those of the
second, moved on by the first one's length. -/
def Obligations.DecOfConcatenationIsConcatenation : Prop :=
  ∀ s u w t v : State, s.params = w.params → u.params = w.params → w.params.Legal →
    w.inLen < 2 ^ w.params.argw → w.inLen ≤ w.params.inMax → w.inBytes = s.inBytes ++ u.inBytes →
    (∀ m, w.params.recMax = some m → t.recCnt + v.recCnt ≤ m) →
    exec .dec s = .next t → t.status.err = 0#3 → exec .dec u = .next v → v.status.err = 0#3 →
    ∃ x, exec .dec w = .next x ∧ x.status.err = 0#3 ∧
      x.records = t.records ++ v.records.map (shiftRecord s.inLen)

/-- R144, the round trip: for a payload of at most 65533 bytes and an all-ASCII name, decoding what `ENC_TAP` emitted
yields exactly a header record and a data record. `u` is any state whose IN holds that output (`MOVE IN, OUT`). The parsed
filename is the padded name without its trailing spaces. -/
def Obligations.DecodeOfEncodeTapRoundTrip : Prop :=
  ∀ s t u : State, s.params.Legal → s.nameLen ≤ s.params.nameMax → s.inLen ≤ s.params.inMax →
    (∀ i < s.nameLen, (s.byteAt .name i).toNat < 0x80) → s.inLen ≤ 65533 → s.inLen + 25 ≤ s.params.outMax →
    exec .encTap s = .next t → u.params = s.params → u.inBytes = t.outBytes → u.inLen ≤ u.params.inMax →
    (∀ m, u.params.recMax = some m → 2 ≤ m) →
    ∃ v h d hd, exec .dec u = .next v ∧ v.records = [h, d] ∧ v.recCnt = 2 ∧ v.warnCnt = 0 ∧ v.status = .success ∧
      h.length = 0x0013#16 ∧ h.flag = 0x00#8 ∧ h.header = some hd ∧ hd.hType = 0x03#8 ∧
      hd.hName.toList = (List.range 10).map (fun i => if i < s.nameLen then s.byteAt .name i else 0x20#8) ∧
      hd.hName.toList = hd.fileName ++ List.replicate (10 - hd.fileName.length) 0x20#8 ∧
      hd.fileName.getLast? ≠ some 0x20#8 ∧
      hd.hDlen.toNat = s.inLen ∧ hd.hP1.toNat = s.aAddr % 65536 ∧ hd.hP2 = 0x0000#16 ∧
      d.length.toNat = s.inLen + 2 ∧ d.flag = 0xFF#8 ∧ d.payload = s.inBytes ∧ d.payOff = 24 ∧ d.header = none

/-- R119: the properties of every successful `ENC_HDR` output, byte by byte, and that `DEC` applied to it (IN of `u` holds
it) yields exactly one record, with the fields that went in. -/
def Obligations.EncHdrOutputProperties : Prop :=
  ∀ s t : State, s.params.Legal → exec .encHdr s = .next t → t.status = .success →
    t.outLen = 21 ∧ t.byteAt .out 0 = 0x13#8 ∧ t.byteAt .out 1 = 0x00#8 ∧ t.byteAt .out 2 = 0x00#8 ∧
    t.byteAt .out 3 = 0x03#8 ∧ (∀ i, 4 ≤ i → i ≤ 13 → (t.byteAt .out i).toNat < 0x80) ∧
    t.byteAt .out 18 = 0x00#8 ∧ t.byteAt .out 19 = 0x00#8 ∧ t.byteAt .out 20 = xorFold (t.memRead .out 2 18) ∧
    xorFold (t.memRead .out 2 19) = 0x00#8 ∧
    ∀ u : State, u.params = s.params → u.inBytes = t.outBytes → u.inLen ≤ u.params.inMax →
      (∀ m, u.params.recMax = some m → 1 ≤ m) →
      ∃ v r hd, exec .dec u = .next v ∧ v.records = [r] ∧ v.status = .success ∧ r.header = some hd ∧
        hd.hType = 0x03#8 ∧ hd.hName.toList = t.memRead .out 4 10 ∧ hd.hDlen.toNat = s.aDlen % 65536 ∧
        hd.hP1.toNat = s.aAddr % 65536 ∧ hd.hP2 = 0x0000#16

/-- R135: the properties of every successful `ENC_DATA` output, and that `DEC` applied to it (IN of `u` holds it) yields
exactly one record, with the payload that went in. -/
def Obligations.EncDataOutputProperties : Prop :=
  ∀ s t : State, s.params.Legal → exec .encData s = .next t → t.status = .success →
    (u16le (t.byteAt .out 0) (t.byteAt .out 1)).toNat = s.inLen + 2 ∧ t.byteAt .out 2 = 0xFF#8 ∧
    t.outLen = s.inLen + 4 ∧ t.memRead .out 3 s.inLen = s.inBytes ∧
    t.byteAt .out (t.outLen - 1) = xorFold (t.memRead .out 2 (t.outLen - 3)) ∧
    xorFold (t.memRead .out 2 (t.outLen - 2)) = 0x00#8 ∧
    ∀ u : State, u.params = s.params → u.inBytes = t.outBytes → u.inLen ≤ u.params.inMax →
      (∀ m, u.params.recMax = some m → 1 ≤ m) →
      ∃ v r, exec .dec u = .next v ∧ v.records = [r] ∧ v.status = .success ∧ r.length.toNat = s.inLen + 2 ∧
        r.flag = 0xFF#8 ∧ r.payload = s.inBytes ∧ r.header = none ∧ r.warn = false

/-- R160: `unpack` of a 17-byte payload fails exactly on a non-ASCII filename byte; else it yields the fields at their
offsets, little-endian, and `H_NLEN` is the least length whose rest is all 0x20. -/
def Obligations.UnpackReadsTheFields : Prop :=
  ∀ p : List Byte, p.length = 17 →
    (unpack p = none ↔ ∃ i, 1 ≤ i ∧ i ≤ 10 ∧ 0x80 ≤ (p.getD i 0x00#8).toNat) ∧
    ∀ h, unpack p = some h →
      h.hType = p.getD 0 0x00#8 ∧ h.hName.toList = (p.drop 1).take 10 ∧
      h.hDlen.toNat = (p.getD 11 0x00#8).toNat + 256 * (p.getD 12 0x00#8).toNat ∧
      h.hP1.toNat = (p.getD 13 0x00#8).toNat + 256 * (p.getD 14 0x00#8).toNat ∧
      h.hP2.toNat = (p.getD 15 0x00#8).toNat + 256 * (p.getD 16 0x00#8).toNat ∧
      h.hNlen.toNat ≤ 10 ∧ (∀ i, h.hNlen.toNat ≤ i → i < 10 → p.getD (1 + i) 0x00#8 = 0x20#8) ∧
      (h.hNlen.toNat ≠ 0 → p.getD h.hNlen.toNat 0x00#8 ≠ 0x20#8)

/-! ## The blocks as instructions -/

/-- `BLK_HDR` completes on a whole block at the cursor (R159 to R162, R156, R157): its record is appended with the header
its payload unpacks to, or marked with the warning; the cursor moves past the 21 bytes; the block registers hold its
fields, and the header field registers those of a header that unpacked. -/
def Obligations.BlkHdrRecordsAndUnpacks : Prop :=
  ∀ s : State, s.inLen < 2 ^ s.params.argw → s.cur + 21 ≤ s.inLen → s.recFull = false →
    s.recCnt + 1 < 2 ^ s.params.argw → s.warnCnt + 1 < 2 ^ s.params.argw →
    ∃ t, exec .blkHdr s = .next t ∧ t.cur = s.cur + 21 ∧ t.recCnt = s.recCnt + 1 ∧
      t.record? s.recCnt = some
        { length := 0x0013#16, flag := 0x00#8, payOff := s.cur + 3, payload := s.memRead .inp (s.cur + 3) 17,
          checksum := s.byteAt .inp (s.cur + 20), header := unpack (s.memRead .inp (s.cur + 3) 17),
          warn := (unpack (s.memRead .inp (s.cur + 3) 17)).isNone } ∧
      t.len = 0x0013#16 ∧ t.flag = 0x00#8 ∧ t.chk = s.byteAt .inp (s.cur + 20) ∧
      (unpack (s.memRead .inp (s.cur + 3) 17) = none →
        t.warnCnt = s.warnCnt + 1 ∧ t.status = { s.status with warn := true }) ∧
      (∀ h, unpack (s.memRead .inp (s.cur + 3) 17) = some h → t.warnCnt = s.warnCnt ∧ t.status = s.status ∧
        t.hType = h.hType ∧ t.hName = h.hName ∧ t.hNlen = h.hNlen ∧ t.hDlen = h.hDlen ∧ t.hP1 = h.hP1 ∧ t.hP2 = h.hP2)

/-- `BLK_DATA` and `BLK_OTHER` complete on a whole block at the cursor (R162, R156, R157): the record is appended with no
header and no warning, the checksum byte as it is read, the block registers hold its fields, and the cursor moves past the
`L + 2` bytes. -/
def Obligations.BlkDataAndOtherRecordTheBlock : Prop :=
  ∀ (s : State) (i : Instr) (len : U16) (flag : Byte), i = .blkData len ∧ flag = 0xFF#8 ∨ i = .blkOther len flag →
    i.wellFormed = true → s.inLen < 2 ^ s.params.argw → s.cur + 2 + len.toNat ≤ s.inLen → s.recFull = false →
    s.recCnt + 1 < 2 ^ s.params.argw →
    ∃ t, exec i s = .next t ∧ t.cur = s.cur + 2 + len.toNat ∧ t.recCnt = s.recCnt + 1 ∧
      t.record? s.recCnt = some
        { length := len, flag := flag, payOff := s.cur + 3, payload := s.memRead .inp (s.cur + 3) (len.toNat - 2),
          checksum := s.byteAt .inp (s.cur + 1 + len.toNat), header := none, warn := false } ∧
      t.len = len ∧ t.flag = flag ∧ t.chk = s.byteAt .inp (s.cur + 1 + len.toNat) ∧
      t.warnCnt = s.warnCnt ∧ t.status = s.status

/-- R155: a block whose length field is 0 or 1, its flag byte there, raises MalformedBlock, and every record and warning
gathered is discarded (R165). -/
def Obligations.IllegalLengthsRaiseMalformedBlock : Prop :=
  ∀ (s : State) (flag : Byte), s.inLen < 2 ^ s.params.argw → s.cur + 3 ≤ s.inLen →
    ∀ i, i = .blkIllegalLen0 flag ∨ i = .blkIllegalLen1 flag →
      ∃ t, exec i s = .next t ∧ t.status = .faulted .malformedBlock ∧ t.recCnt = 0 ∧ t.warnCnt = 0 ∧ t.outLen = 0 ∧
        t.acc = 0x00#8

/-- R153, R154, R156, R157: a block that does not fit in what remains of IN raises StreamTruncated: every block
instruction when its head is cut short, and each recording one when its payload or checksum byte is. Those rules ask for
a byte at the cursor. Where none is left (`s.cur = s.inLen`, or beyond) a scan ends with success (R152, R183) and runs no
block; that a block instruction given to `exec` there raises StreamTruncated too is the model's choice (log 10). -/
def Obligations.BlocksCutShortRaiseStreamTruncated : Prop :=
  ∀ (s : State) (i : Instr), i.wellFormed = true → i.format = .framedBlock → s.inLen < 2 ^ s.params.argw →
    (s.inLen < s.cur + 3 ∨
      ∃ len : U16, (i = .blkHdr ∧ len = 0x0013#16 ∨ i = .blkData len ∨ ∃ flag, i = .blkOther len flag) ∧
        s.inLen < s.cur + 2 + len.toNat) →
    ∃ t, exec i s = .next t ∧ t.status = .faulted .streamTruncated ∧ t.recCnt = 0 ∧ t.warnCnt = 0 ∧ t.outLen = 0

/-- R31, R158: no block moves the cursor back, and none moves it past `IN_LEN`. -/
def Obligations.CursorOnlyMovesForward : Prop :=
  ∀ (s t : State) (i : Instr), i.format = .framedBlock → s.inLen < 2 ^ s.params.argw → s.cur ≤ s.inLen →
    exec i s = .next t → s.cur ≤ t.cur ∧ t.cur ≤ t.inLen

/-! ## Reserved codes, faults, command start and end -/

/-- R85: a reserved command code starts like any command, so all results are cleared, raises IllegalCommand (code 5), and
ends: "Nothing else happens". The one further change is the command start's `CUR` (R39). -/
def Obligations.ReservedCodesRaiseIllegalCommand : Prop :=
  ∀ (s : State) (c : BitVec 3), c = 0b000#3 ∨ c = 0b110#3 ∨ c = 0b111#3 →
    exec (decodeCode c) s = .next
      { s with
        status := { busy := false, done := true, warn := false, err := 5#3 }
        outLen := 0, recCnt := 0, warnCnt := 0, acc := 0x00#8, cur := 0 }

/-- R186: whichever command faults, `ERR` holds one of the five codes, every result is cleared, the block is idle and done,
and operands and inputs are as they were. A block instruction that faults does the same. -/
def Obligations.FaultsLeaveOnlyTheStatus : Prop :=
  ∀ (i : Instr) (s t : State), i.format = .cmd3 ∨ s.status.err = 0#3 → exec i s = .next t → t.status.err ≠ 0#3 →
    (∃ f : TapFault, t.status = { busy := false, done := true, warn := false, err := f.code }) ∧
    t.outLen = 0 ∧ t.recCnt = 0 ∧ t.warnCnt = 0 ∧ t.acc = 0x00#8 ∧
    t.aDlen = s.aDlen ∧ t.aAddr = s.aAddr ∧ t.inLen = s.inLen ∧ t.nameLen = s.nameLen ∧
    (∀ a, t.byteAt .inp a = s.byteAt .inp a) ∧ (∀ a, t.byteAt .name a = s.byteAt .name a)

/-- R40, R224: when a command has ended, with or without a fault, `BUSY` is 0 and `DONE` is 1, and one that ends without a
fault leaves `ERR` 0; and within the capacities of R221 every command ends. -/
def Obligations.CommandsEndIdleAndDone : Prop :=
  ∀ (i : Instr) (s : State), i.format = .cmd3 → s.params.Legal → s.inLen < 2 ^ s.params.argw →
    (∀ t, exec i s = .next t → t.status.busy = false ∧ t.status.done = true ∧
      (t.status.err = 0#3 ∨ ∃ f : TapFault, t.status = .faulted f)) ∧
    (s.inLen ≤ s.params.inMax → s.nameLen ≤ s.params.nameMax → 21 ≤ s.params.outMax →
      (s.inLen ≤ 65533 → s.inLen + 25 ≤ s.params.outMax) → (∀ m, s.params.recMax = some m → s.inLen / 4 ≤ m) →
      ∃ t, exec i s = .next t)

/-- R27, R28, R29, R30: what the result registers hold after each command: no output length after `CSUM`, `DEC` and the
reserved codes, no records or warnings after a command other than `DEC`, no checksum after `DEC` and the reserved codes. -/
def Obligations.ResultsOfTheOtherKindAreCleared : Prop :=
  ∀ (s t : State),
    (∀ i, i = .csum ∨ i = .dec ∨ i = .reserved0 ∨ i = .reserved6 ∨ i = .reserved7 → exec i s = .next t →
      t.outLen = 0) ∧
    (∀ i, i.format = .cmd3 → i ≠ .dec → exec i s = .next t → t.recCnt = 0 ∧ t.warnCnt = 0) ∧
    (∀ i, i = .dec ∨ i = .reserved0 ∨ i = .reserved6 ∨ i = .reserved7 → exec i s = .next t → t.acc = 0x00#8)

/-- R221, U15: no instruction ends in a fault of the model, and one is refused only beyond a capacity it needs: the input's,
the name's, the output's, or, for `DEC`, the records' of a stream that begins with more whole blocks than `REC_MAX`; a
block on its own is refused only with REC full. (Where a run of blocks ends that a later fault would discard, and where
each check stands, is the model's choice, log 11; a block as an instruction is its form, log 9.) -/
def Obligations.RefusedOnlyBeyondACapacity : Prop :=
  ∀ (i : Instr) (s : State),
    (∀ e, exec i s ≠ .fault e) ∧
    (∀ r, exec i s = .refused r →
      (r = .inputBeyondCapacity ∧ (i = .csum ∨ i = .encData ∨ i = .encTap ∨ i = .dec) ∧ s.params.inMax < s.inLen) ∨
      (r = .nameBeyondCapacity ∧ (i = .encHdr ∨ i = .encTap) ∧ s.params.nameMax < s.nameLen) ∨
      (r = .outputBeyondCapacity ∧
        (i = .encHdr ∧ s.params.outMax < 21 ∨ i = .encData ∧ s.params.outMax < s.inLen + 4 ∨
          i = .encTap ∧ s.params.outMax < s.inLen + 25)) ∨
      (r = .recordsBeyondCapacity ∧ i = .dec ∧
        (s.inLen < 2 ^ s.params.argw → ∃ (m : Nat) (fs : List Frame) (rest : List Byte),
          s.params.recMax = some m ∧ s.inBytes = fs.flatMap Frame.bytes ++ rest ∧
          (∀ f ∈ fs, f.payload.length ≤ 65533) ∧ fs.length = m + 1 ∧ m < s.inLen / 4)) ∨
      (r = .recordsBeyondCapacity ∧ i.format = .framedBlock ∧ ∃ m, s.params.recMax = some m ∧ m ≤ s.recCnt))

/-- R221, U15, the other direction: a command beyond a capacity is refused. `IN_LEN > IN_MAX` and `NAME_LEN > NAME_MAX` for
the commands that read the space; an output longer than `OUT_MAX` for an encode command that raises no fault; more whole
blocks at the head of IN than `REC_MAX` for `DEC`, whatever follows them; and a whole block with REC full. (The order of
the checks, and that a fault raised first or met later than the record too many does not count, is the model's choice,
log 11; a block as an instruction is its form, log 9.) -/
def Obligations.CommandsBeyondACapacityAreRefused : Prop :=
  ∀ s : State,
    (s.params.inMax < s.inLen →
      ∀ i, i = .csum ∨ i = .encData ∨ i = .encTap ∨ i = .dec → exec i s = .refused .inputBeyondCapacity) ∧
    (s.params.nameMax < s.nameLen →
      exec .encHdr s = .refused .nameBeyondCapacity ∧
      (s.inLen ≤ s.params.inMax → exec .encTap s = .refused .nameBeyondCapacity)) ∧
    (s.nameLen ≤ s.params.nameMax → (∀ i < s.nameLen, (s.byteAt .name i).toNat < 0x80) →
      (s.params.outMax < 21 → exec .encHdr s = .refused .outputBeyondCapacity) ∧
      (s.inLen ≤ s.params.inMax → s.inLen ≤ 65533 → s.params.outMax < s.inLen + 25 →
        exec .encTap s = .refused .outputBeyondCapacity)) ∧
    (s.inLen ≤ s.params.inMax → s.inLen ≤ 65533 → s.params.outMax < s.inLen + 4 →
      exec .encData s = .refused .outputBeyondCapacity) ∧
    (∀ (m : Nat) (fs : List Frame) (rest : List Byte), s.params.recMax = some m → s.inLen ≤ s.params.inMax →
      s.inLen < 2 ^ s.params.argw → (∀ f ∈ fs, f.payload.length ≤ 65533) →
      s.inBytes = fs.flatMap Frame.bytes ++ rest → m < fs.length →
      exec .dec s = .refused .recordsBeyondCapacity) ∧
    (∀ (m : Nat) (i : Instr) (len : U16), s.params.recMax = some m → m ≤ s.recCnt → s.inLen < 2 ^ s.params.argw →
      i = .blkHdr ∧ len = 0x0013#16 ∨ i = .blkData len ∨ (∃ flag, i = .blkOther len flag) →
      i.wellFormed = true → s.cur + 2 + len.toNat ≤ s.inLen → exec i s = .refused .recordsBeyondCapacity)

/-! ## Frames -/

/-- R41: no instruction writes `A_DLEN`, `A_ADDR`, `IN_LEN`, `NAME_LEN`, or a byte of IN or NAME. -/
def Obligations.OperandsAndInputsAreKept : Prop :=
  ∀ (i : Instr) (s t : State), exec i s = .next t →
    t.aDlen = s.aDlen ∧ t.aAddr = s.aAddr ∧ t.inLen = s.inLen ∧ t.nameLen = s.nameLen ∧
    (∀ a, t.byteAt .inp a = s.byteAt .inp a) ∧ (∀ a, t.byteAt .name a = s.byteAt .name a)

/-- R53, R59: `CSUM`, `DEC`, the reserved codes and the blocks write no byte of OUT; an encoder writes only the bytes
below the `OUT_LEN` it leaves. -/
def Obligations.OnlyEncodersWriteOut : Prop :=
  ∀ (i : Instr) (s t : State), s.params.Legal → exec i s = .next t →
    (i ≠ .encHdr → i ≠ .encData → i ≠ .encTap → ∀ a, t.byteAt .out a = s.byteAt .out a) ∧
    (i = .encHdr ∨ i = .encData ∨ i = .encTap → ∀ a, t.outLen ≤ a → t.byteAt .out a = s.byteAt .out a)

/-- R54, R59: a command other than `DEC` writes no record; `DEC` writes only records below `floor(IN_LEN / 4)`; a block
writes at most the record at `REC_CNT`. -/
def Obligations.OnlyDecodingWritesRecords : Prop :=
  ∀ (i : Instr) (s t : State), s.params.Legal → s.inLen < 2 ^ s.params.argw → exec i s = .next t →
    (i.format = .cmd3 → i ≠ .dec → ∀ k, t.record? k = s.record? k) ∧
    (i = .dec → ∀ k, s.inLen / 4 ≤ k → t.record? k = s.record? k) ∧
    (i.format = .framedBlock → ∀ k, k ≠ s.recCnt → t.record? k = s.record? k)

/-- The internal registers an instruction does not use keep their values: `CSUM` and the reserved codes touch none but
`CUR`; `ENC_DATA` leaves the header field registers alone, `ENC_HDR` and `ENC_TAP` `H_NLEN` (10_state.md R33: "meaningful
on the decode side only"), the blocks that are not header-shaped every header field register. No rule says so: what a
command leaves in an internal register is "not observable" (R34), and that one it does not write keeps its value is the
model's choice (log 14). -/
def Obligations.UnusedInternalRegistersAreKept : Prop :=
  ∀ (i : Instr) (s t : State), s.params.Legal → exec i s = .next t →
    (i = .csum ∨ i = .reserved0 ∨ i = .reserved6 ∨ i = .reserved7 →
      t.len = s.len ∧ t.flag = s.flag ∧ t.chk = s.chk) ∧
    (i ≠ .encHdr → i ≠ .encTap → i ≠ .dec → i ≠ .blkHdr →
      t.hType = s.hType ∧ t.hName = s.hName ∧ t.hDlen = s.hDlen ∧ t.hP1 = s.hP1 ∧ t.hP2 = s.hP2) ∧
    (i ≠ .dec → i ≠ .blkHdr → t.hNlen = s.hNlen)

/-- A block that is accepted changes none of the results of other kinds, and no instruction changes the parameters or the
host's side of the interface (the model's own fields, logs 1, 7 and 13). -/
def Obligations.BlocksAndHostSideFrame : Prop :=
  ∀ (i : Instr) (s t : State), exec i s = .next t →
    (t.params = s.params ∧ t.moved = s.moved ∧ t.host = s.host ∧ t.reply = s.reply ∧ t.epoch = s.epoch ∧ t.free = s.free) ∧
    (i.format = .framedBlock → s.status.busy = true → t.status.busy = true →
      t.outLen = s.outLen ∧ t.acc = s.acc ∧ t.status.done = s.status.done ∧ t.status.err = s.status.err)

/-! ## The step -/

/-- R21, R84: a write to `CMD` while `BUSY` is 0 runs, in that one step, the command of its low three bits. -/
def Obligations.StepRunsTheCommandWritten : Prop :=
  ∀ (s : State) (v : Nat) (rest : List HostAction) (b : Byte) (i : Instr),
    s.host = .writeReg 0 v :: rest → s.status.busy = false → b = BitVec.ofNat 8 v →
    decode .cmd3 [b] = .ok (i, []) → step s = exec i { s with host := rest }

/-- In a scan under way with no host action to come, when the bytes at the cursor decode to a block instruction, the step
is that instruction's meaning: at this very state where the host kept IN still, else at the state as the scan reads it,
with IN as the host left it put back. 20_memory.md R65 says that `DEC` fetches the blocks in IN; that a block is one step,
and that it comes after the pending host actions, is the model's form (logs 8 and 9; 10_state.md R39 makes the whole
command one transition), and so is what a byte that moved reads as (log 13). -/
def Obligations.StepRunsTheBlockAtTheCursor : Prop :=
  ∀ (s : State) (i : Instr) (rest : List Byte),
    s.host = [] → s.status.busy = true → s.cur < s.inLen →
    decode .framedBlock (s.scanned.memRead .inp s.cur (s.inLen - s.cur)) = .ok (i, rest) →
    step s = s.settled (exec i s.scanned) ∧ (s.moved = [] → s.scanned = s ∧ step s = exec i s)

/-- R217, U11, R50: what a host write of IN or NAME does, the block idle or not, given as the whole next state. IN: the byte
is in IN, and reads back there; the pending action is gone; and, while a scan is under way only, the scan reads a free value
at that offset ("an unspecified mixture of old and new bytes"; the statement holds whatever the free value is, log 13) and
every other byte as before. From then on, through every step that leaves the scan under way, a block's or a host action's,
the scan reads each offset as before, but for one the host writes in that very step; and when the scan has ended, nothing
moved: IN is read as it is. NAME: the byte is in NAME, and no scan reads it (20_memory.md R59). (The fields `host`, `moved`
and `free`, the canonical list of cells, and that a block is a step are the model's form, logs 4, 7, 9 and 13.) -/
def Obligations.InputMovedUnderAScanReadsAsAnyValue : Prop :=
  (∀ (s : State) (a : Nat) (b : Byte) (rest : List HostAction), s.Inv →
    (s.host = .writeIn a b :: rest → a < s.params.inMax →
      ∃ t, step s = .next t ∧
        (s.status.busy = false → t = { s with host := rest, inMem := Memory.write s.inMem a b }) ∧
        (s.status.busy = true → t = { s with
          host := rest, inMem := Memory.write s.inMem a b,
          moved := Memory.write s.moved a (Config.freeByte s.free), free := s.free + 1 }) ∧
        t.byteAt .inp a = b ∧ (∀ c ≠ a, t.byteAt .inp c = s.byteAt .inp c) ∧
        (s.status.busy = false → ∀ c, t.scanned.byteAt .inp c = t.byteAt .inp c) ∧
        (s.status.busy = true → t.scanned.byteAt .inp a = Config.freeByte s.free ∧
          ∀ c ≠ a, t.scanned.byteAt .inp c = s.scanned.byteAt .inp c)) ∧
    (s.host = .writeName a b :: rest → a < s.params.nameMax →
      ∃ t, step s = .next t ∧ t = { s with host := rest, nameMem := Memory.write s.nameMem a b } ∧
        t.byteAt .name a = b ∧ (∀ c ≠ a, t.byteAt .name c = s.byteAt .name c) ∧
        ∀ c, t.scanned.byteAt .inp c = s.scanned.byteAt .inp c)) ∧
  (∀ u v : State, u.Inv → u.status.busy = true → step u = .next v →
    (v.status.busy = true → ∀ c, (∀ b rest, u.host ≠ .writeIn c b :: rest) →
      v.scanned.byteAt .inp c = u.scanned.byteAt .inp c) ∧
    (v.status.busy = false → v.scanned = v))

/-- R217, R224: whatever bytes of IN and NAME the host writes under a scan under way, "the command still ends": after the
writes and at most `floor((IN_LEN - CUR) / 4) + 1` blocks more the block is idle and done, with no fault or one of the two
a scan raises, "still obeys every structural invariant" (10_state.md R22, in `Inv`), every byte of IN and of NAME is the last
one the host wrote there, or the one that stood there, so that no free value of the scan is left in IN, OUT is as it was, and
nothing of what moved is remembered. The capacity is R221's. (That the writes come before the next block, and that blocks
are steps, is the model's form, logs 8 and 9.) -/
def Obligations.ScanEndsThoughInputMoves : Prop :=
  ∀ s : State, s.Inv → s.status.busy = true →
    (∀ x ∈ s.host, (∃ a b, x = .writeIn a b ∧ a < s.params.inMax) ∨ (∃ a b, x = .writeName a b ∧ a < s.params.nameMax)) →
    (∀ m, s.params.recMax = some m → s.inLen / 4 ≤ m) →
    ∃ t, Host.Core.run Sys2Proof.core (s.host.length + (s.inLen - s.cur) / 4 + 1) s = .next t ∧
      t.status.busy = false ∧ t.status.done = true ∧
      (t.status.err = 0#3 ∨ t.status = .faulted .streamTruncated ∨ t.status = .faulted .malformedBlock) ∧
      t.Inv ∧ t.moved = [] ∧ t.host = [] ∧ t.inLen = s.inLen ∧
      ∀ sp a, t.byteAt sp a = lastWritten sp a (s.byteAt sp a) s.host

/-- A table word placed by `withFetchWord` is the instruction the next step runs (the placing is the model's form, log 7 and
log 17). -/
def Obligations.PlacedWordRunsNext : Prop :=
  ∀ (s : State) (nbits w : Nat) (i : Instr), s.params.Legal → s.cur + 65537 < 2 ^ s.params.argw →
    nbits ≤ 24 → decodeTableWord nbits w = some i →
    ∃ s', step (s.withFetchWord nbits w) = exec i s' ∧
      s'.params = s.params ∧ s'.cur = s.cur ∧ s'.recCnt = s.recCnt ∧ s'.outLen = s.outLen

/-- R216: a host write to `CMD` or to an operand register while `BUSY` is 1 changes nothing, starts nothing and is not
remembered. (The list of pending host actions it is taken from is the model's own form, log 7.) -/
def Obligations.WritesWhileBusyAreIgnored : Prop :=
  ∀ (s : State) (idx v : Nat) (rest : List HostAction),
    s.host = .writeReg idx v :: rest → s.status.busy = true → step s = .next { s with host := rest }

/-- 10_state.md R20: after a host write of `v` to register `idx` (not `CMD`), a read of register `j` returns: for a
register marked `W` that was written, `v` cut to `ARGW` bits; else what it held; `CMD` and indices of 10 or above read
0. -/
def Obligations.RegisterMapReadsAndWrites : Prop :=
  ∀ (s : State) (idx v j : Nat) (rest : List HostAction),
    s.status.busy = false → idx ≠ 0 → s.host = .writeReg idx v :: .readReg j :: rest →
    ∃ t, Host.Core.run Sys2Proof.core 2 s = .next t ∧ t.host = rest ∧
      t.reply = some (.word
        (if j = idx ∧ 2 ≤ idx ∧ idx ≤ 5 then v % 2 ^ s.params.argw
         else if j = 0 ∨ 10 ≤ j then 0
         else if j = 1 then s.status.done.toNat * 2 + s.status.warn.toNat * 4 + s.status.err.toNat * 16
         else if j = 2 then s.aDlen else if j = 3 then s.aAddr else if j = 4 then s.inLen
         else if j = 5 then s.nameLen else if j = 6 then s.outLen else if j = 7 then s.recCnt
         else if j = 8 then s.warnCnt else s.acc.toNat))

/-- R218, 10_state.md R20: what a host read of a register returns while `BUSY` is 1. "`STATUS` is always readable": the status
word, its `BUSY` bit 1. The operand registers read back what they hold, `CMD` and the indices of 10 or above 0. A result
register reads as some value of its width, and which is unspecified. (The pending list and the reply are the model's own
form, log 7; the free value's form is log 6.) -/
def Obligations.RegisterReadsWhileBusy : Prop :=
  ∀ (s : State) (j : Nat) (rest : List HostAction), s.status.busy = true → s.host = .readReg j :: rest →
    ∃ t v, step s = .next t ∧ t.host = rest ∧ t.reply = some (.word v) ∧
      (j = 1 → v = 1 + s.status.done.toNat * 2 + s.status.warn.toNat * 4 + s.status.err.toNat * 16) ∧
      (j = 2 → v = s.aDlen) ∧ (j = 3 → v = s.aAddr) ∧ (j = 4 → v = s.inLen) ∧ (j = 5 → v = s.nameLen) ∧
      (6 ≤ j ∧ j ≤ 8 → v < 2 ^ s.params.argw) ∧ (j = 9 → v < 256) ∧ (j = 0 ∨ 10 ≤ j → v = 0)

/-- R22: `STATUS` as an integer is `BUSY + 2*DONE + 4*WARN + 16*ERR`, and its bits 3 and 7 read 0. -/
def Obligations.StatusWordLayout : Prop :=
  ∀ st : Status,
    st.toByte.toNat = st.busy.toNat + 2 * st.done.toNat + 4 * st.warn.toNat + 16 * st.err.toNat ∧
    st.toByte.getLsbD 3 = false ∧ st.toByte.getLsbD 7 = false

/-- R210: reset, from any state, a command running or not, puts every host-visible register at its reset value and leaves
no result and no fault. -/
def Obligations.ResetFromAnyState : Prop :=
  ∀ (s : State) (rest : List HostAction), s.host = .reset :: rest →
    ∃ t, step s = .next t ∧ t.status.toByte = 0x00#8 ∧ t.aDlen = 0 ∧ t.aAddr = 0x8000 ∧ t.inLen = 0 ∧ t.nameLen = 0 ∧
      t.outLen = 0 ∧ t.recCnt = 0 ∧ t.warnCnt = 0 ∧ t.acc = 0x00#8

/-- R50: a host action that neither writes `CMD` nor resets leaves `STATUS`, the result registers, OUT and REC as they
are: "the host has no means of writing them". -/
def Obligations.HostCannotWriteResults : Prop :=
  ∀ (s t : State) (a : HostAction) (rest : List HostAction), s.host = a :: rest → a ≠ .reset →
    (∀ v, a ≠ .writeReg 0 v) → step s = .next t →
    t.status = s.status ∧ t.acc = s.acc ∧ t.outLen = s.outLen ∧ t.recCnt = s.recCnt ∧ t.warnCnt = s.warnCnt ∧
    (∀ x, t.byteAt .out x = s.byteAt .out x) ∧ (∀ k, t.record? k = s.record? k)

/-- R50, R51: the host reads back of IN and of NAME what it wrote, and what stood at every other offset; and, while the block
is idle, it reads the valid bytes of OUT and the valid records of REC. -/
def Obligations.HostReadsBackWhatItWrote : Prop :=
  ∀ (s : State) (a : Nat) (b : Byte) (rest : List HostAction),
    (a < s.params.inMax → s.host = .writeIn a b :: .readByte .inp a :: rest →
      ∃ t, Host.Core.run Sys2Proof.core 2 s = .next t ∧ t.reply = some (.byte b)) ∧
    (∀ c ≠ a, a < s.params.inMax → c < s.params.inMax → s.host = .writeIn a b :: .readByte .inp c :: rest →
      ∃ t, Host.Core.run Sys2Proof.core 2 s = .next t ∧ t.reply = some (.byte (s.byteAt .inp c))) ∧
    (a < s.params.nameMax → s.host = .writeName a b :: .readByte .name a :: rest →
      ∃ t, Host.Core.run Sys2Proof.core 2 s = .next t ∧ t.reply = some (.byte b)) ∧
    (∀ c ≠ a, a < s.params.nameMax → c < s.params.nameMax → s.host = .writeName a b :: .readByte .name c :: rest →
      ∃ t, Host.Core.run Sys2Proof.core 2 s = .next t ∧ t.reply = some (.byte (s.byteAt .name c))) ∧
    (s.status.busy = false → a < s.outLen → s.host = .readByte .out a :: rest →
      ∃ t, step s = .next t ∧ t.reply = some (.byte (s.byteAt .out a))) ∧
    (∀ r, s.status.busy = false → a < s.recCnt → s.record? a = some r → s.host = .readRec a :: rest →
      ∃ t, step s = .next t ∧ t.reply = some (.record r))

/-- 20_memory.md R58, R50: a host read of a register, of a byte a space has, or of a record answers, and "reads have no side
effects": nothing but the reply changes. (The reply, and the count of free values, which a read of what is not valid uses
up, are the model's own fields, logs 6 and 7.) -/
def Obligations.HostReadsChangeNothing : Prop :=
  ∀ (s : State) (x : HostAction) (rest : List HostAction), s.host = x :: rest →
    ((∃ j, x = .readReg j) ∨ (∃ i, x = .readRec i) ∨
      ∃ sp a, x = .readByte sp a ∧ (sp = .inp → a < s.params.inMax) ∧ (sp = .name → a < s.params.nameMax)) →
    ∃ (v : HostReply) (n : Nat), step s = .next { s with host := rest, reply := some v, free := n } ∧ s.free ≤ n

/-- 30_encoding.md R87: `LOAD IN, <bytes>` and `LOAD NAME, <bytes>`, run as the host actions they stand for, leave exactly
those bytes as the valid content of the space. -/
def Obligations.LoadScriptsPlaceTheirBytes : Prop :=
  ∀ (s : State) (bs : List Byte) (rest : List HostAction), s.params.Legal → s.status.busy = false →
    (bs.length ≤ s.params.inMax → s.host = Script.loadIn bs ++ rest →
      ∃ t, Host.Core.run Sys2Proof.core (bs.length + 1) s = .next t ∧ t.inBytes = bs ∧ t.host = rest ∧
        t.nameBytes = s.nameBytes ∧ SameResults s t) ∧
    (bs.length ≤ s.params.nameMax → s.host = Script.loadName bs ++ rest →
      ∃ t, Host.Core.run Sys2Proof.core (bs.length + 1) s = .next t ∧ t.nameBytes = bs ∧ t.host = rest ∧
        t.inBytes = s.inBytes ∧ SameResults s t)

/-- 10_state.md R39, R22: a command is one transition, so a host that finds the block idle finds it idle after every step:
"the host never observes `BUSY == 1`". -/
def Obligations.IdleStaysIdle : Prop :=
  ∀ s t : State, s.Inv → s.status.busy = false → step s = .next t → t.status.busy = false

/-- 20_memory.md R58, R167 (a), 60_exceptions.md R192: a command repeated on what it left gives the same results, success
or fault. -/
def Obligations.RepeatedCommandsGiveTheSameResults : Prop :=
  ∀ (i : Instr) (s t : State), i.format = .cmd3 → s.params.Legal → s.inLen < 2 ^ s.params.argw →
    exec i s = .next t → ∃ v, exec i t = .next v ∧ SameResults t v

/-- R34, R86, R167 (a): what a command delivers is a function of exactly the operands rule R86 names: two states that agree
on them (and on the parameters) give the same results, whatever else they hold ("no hidden state"). `ENC_TAP` ignores
`A_DLEN`, `ENC_HDR` ignores IN, `CSUM`, `ENC_DATA` and `DEC` ignore the name and both arguments. -/
def Obligations.ResultsDependOnTheNamedOperandsAlone : Prop :=
  ∀ (i : Instr) (s u t : State), s.params = u.params → s.params.Legal → s.inLen < 2 ^ s.params.argw →
    SameOperands i s u → exec i s = .next t → ∃ v, exec i u = .next v ∧ SameResults t v

/-! ## The invariant -/

/-- The state after reset meets the invariant. -/
def Obligations.ResetMeetsTheInvariant : Prop := State.reset.Inv

/-- Every step keeps the invariant: the widths, the canonical form of the spaces, the rules of `STATUS` (R22), the record
rules (R37), the rules of a scan under way (R31, R158), and that what moved under a scan is forgotten when it ends (the
model's own field, log 13). -/
def Obligations.StepKeepsTheInvariant : Prop :=
  ∀ s t : State, s.Inv → step s = .next t → t.Inv
end

