-- ==== Sys2Proof/Laws/State.lean ====
section
/-! SUPPORT. One lemma per field per one-register or one-cell update, so that no later proof unfolds a record
update. A composite operation has its lemmas in the file about it. -/

namespace Sys2Proof.Machine

/-! ### setStatus -/
section
variable (s : State) (st : Status)
@[simp] theorem State.setStatus_params : (s.setStatus st).params = s.params := rfl
@[simp] theorem State.setStatus_status : (s.setStatus st).status = st := rfl
@[simp] theorem State.setStatus_aDlen : (s.setStatus st).aDlen = s.aDlen := rfl
@[simp] theorem State.setStatus_aAddr : (s.setStatus st).aAddr = s.aAddr := rfl
@[simp] theorem State.setStatus_inLen : (s.setStatus st).inLen = s.inLen := rfl
@[simp] theorem State.setStatus_nameLen : (s.setStatus st).nameLen = s.nameLen := rfl
@[simp] theorem State.setStatus_outLen : (s.setStatus st).outLen = s.outLen := rfl
@[simp] theorem State.setStatus_recCnt : (s.setStatus st).recCnt = s.recCnt := rfl
@[simp] theorem State.setStatus_warnCnt : (s.setStatus st).warnCnt = s.warnCnt := rfl
@[simp] theorem State.setStatus_acc : (s.setStatus st).acc = s.acc := rfl
@[simp] theorem State.setStatus_cur : (s.setStatus st).cur = s.cur := rfl
@[simp] theorem State.setStatus_len : (s.setStatus st).len = s.len := rfl
@[simp] theorem State.setStatus_flag : (s.setStatus st).flag = s.flag := rfl
@[simp] theorem State.setStatus_chk : (s.setStatus st).chk = s.chk := rfl
@[simp] theorem State.setStatus_hType : (s.setStatus st).hType = s.hType := rfl
@[simp] theorem State.setStatus_hName : (s.setStatus st).hName = s.hName := rfl
@[simp] theorem State.setStatus_hNlen : (s.setStatus st).hNlen = s.hNlen := rfl
@[simp] theorem State.setStatus_hDlen : (s.setStatus st).hDlen = s.hDlen := rfl
@[simp] theorem State.setStatus_hP1 : (s.setStatus st).hP1 = s.hP1 := rfl
@[simp] theorem State.setStatus_hP2 : (s.setStatus st).hP2 = s.hP2 := rfl
@[simp] theorem State.setStatus_inMem : (s.setStatus st).inMem = s.inMem := rfl
@[simp] theorem State.setStatus_nameMem : (s.setStatus st).nameMem = s.nameMem := rfl
@[simp] theorem State.setStatus_outMem : (s.setStatus st).outMem = s.outMem := rfl
@[simp] theorem State.setStatus_recMem : (s.setStatus st).recMem = s.recMem := rfl
@[simp] theorem State.setStatus_moved : (s.setStatus st).moved = s.moved := rfl
@[simp] theorem State.setStatus_host : (s.setStatus st).host = s.host := rfl
@[simp] theorem State.setStatus_reply : (s.setStatus st).reply = s.reply := rfl
@[simp] theorem State.setStatus_epoch : (s.setStatus st).epoch = s.epoch := rfl
@[simp] theorem State.setStatus_free : (s.setStatus st).free = s.free := rfl
@[simp] theorem State.setStatus_fit (x : Nat) : (s.setStatus st).fit x = s.fit x := rfl
end

/-! ### setADlen -/
section
variable (s : State) (v : Nat)
@[simp] theorem State.setADlen_params : (s.setADlen v).params = s.params := rfl
@[simp] theorem State.setADlen_status : (s.setADlen v).status = s.status := rfl
@[simp] theorem State.setADlen_aDlen : (s.setADlen v).aDlen = s.fit v := rfl
@[simp] theorem State.setADlen_aAddr : (s.setADlen v).aAddr = s.aAddr := rfl
@[simp] theorem State.setADlen_inLen : (s.setADlen v).inLen = s.inLen := rfl
@[simp] theorem State.setADlen_nameLen : (s.setADlen v).nameLen = s.nameLen := rfl
@[simp] theorem State.setADlen_outLen : (s.setADlen v).outLen = s.outLen := rfl
@[simp] theorem State.setADlen_recCnt : (s.setADlen v).recCnt = s.recCnt := rfl
@[simp] theorem State.setADlen_warnCnt : (s.setADlen v).warnCnt = s.warnCnt := rfl
@[simp] theorem State.setADlen_acc : (s.setADlen v).acc = s.acc := rfl
@[simp] theorem State.setADlen_cur : (s.setADlen v).cur = s.cur := rfl
@[simp] theorem State.setADlen_len : (s.setADlen v).len = s.len := rfl
@[simp] theorem State.setADlen_flag : (s.setADlen v).flag = s.flag := rfl
@[simp] theorem State.setADlen_chk : (s.setADlen v).chk = s.chk := rfl
@[simp] theorem State.setADlen_hType : (s.setADlen v).hType = s.hType := rfl
@[simp] theorem State.setADlen_hName : (s.setADlen v).hName = s.hName := rfl
@[simp] theorem State.setADlen_hNlen : (s.setADlen v).hNlen = s.hNlen := rfl
@[simp] theorem State.setADlen_hDlen : (s.setADlen v).hDlen = s.hDlen := rfl
@[simp] theorem State.setADlen_hP1 : (s.setADlen v).hP1 = s.hP1 := rfl
@[simp] theorem State.setADlen_hP2 : (s.setADlen v).hP2 = s.hP2 := rfl
@[simp] theorem State.setADlen_inMem : (s.setADlen v).inMem = s.inMem := rfl
@[simp] theorem State.setADlen_nameMem : (s.setADlen v).nameMem = s.nameMem := rfl
@[simp] theorem State.setADlen_outMem : (s.setADlen v).outMem = s.outMem := rfl
@[simp] theorem State.setADlen_recMem : (s.setADlen v).recMem = s.recMem := rfl
@[simp] theorem State.setADlen_moved : (s.setADlen v).moved = s.moved := rfl
@[simp] theorem State.setADlen_host : (s.setADlen v).host = s.host := rfl
@[simp] theorem State.setADlen_reply : (s.setADlen v).reply = s.reply := rfl
@[simp] theorem State.setADlen_epoch : (s.setADlen v).epoch = s.epoch := rfl
@[simp] theorem State.setADlen_free : (s.setADlen v).free = s.free := rfl
@[simp] theorem State.setADlen_fit (x : Nat) : (s.setADlen v).fit x = s.fit x := rfl
end

/-! ### setAAddr -/
section
variable (s : State) (v : Nat)
@[simp] theorem State.setAAddr_params : (s.setAAddr v).params = s.params := rfl
@[simp] theorem State.setAAddr_status : (s.setAAddr v).status = s.status := rfl
@[simp] theorem State.setAAddr_aDlen : (s.setAAddr v).aDlen = s.aDlen := rfl
@[simp] theorem State.setAAddr_aAddr : (s.setAAddr v).aAddr = s.fit v := rfl
@[simp] theorem State.setAAddr_inLen : (s.setAAddr v).inLen = s.inLen := rfl
@[simp] theorem State.setAAddr_nameLen : (s.setAAddr v).nameLen = s.nameLen := rfl
@[simp] theorem State.setAAddr_outLen : (s.setAAddr v).outLen = s.outLen := rfl
@[simp] theorem State.setAAddr_recCnt : (s.setAAddr v).recCnt = s.recCnt := rfl
@[simp] theorem State.setAAddr_warnCnt : (s.setAAddr v).warnCnt = s.warnCnt := rfl
@[simp] theorem State.setAAddr_acc : (s.setAAddr v).acc = s.acc := rfl
@[simp] theorem State.setAAddr_cur : (s.setAAddr v).cur = s.cur := rfl
@[simp] theorem State.setAAddr_len : (s.setAAddr v).len = s.len := rfl
@[simp] theorem State.setAAddr_flag : (s.setAAddr v).flag = s.flag := rfl
@[simp] theorem State.setAAddr_chk : (s.setAAddr v).chk = s.chk := rfl
@[simp] theorem State.setAAddr_hType : (s.setAAddr v).hType = s.hType := rfl
@[simp] theorem State.setAAddr_hName : (s.setAAddr v).hName = s.hName := rfl
@[simp] theorem State.setAAddr_hNlen : (s.setAAddr v).hNlen = s.hNlen := rfl
@[simp] theorem State.setAAddr_hDlen : (s.setAAddr v).hDlen = s.hDlen := rfl
@[simp] theorem State.setAAddr_hP1 : (s.setAAddr v).hP1 = s.hP1 := rfl
@[simp] theorem State.setAAddr_hP2 : (s.setAAddr v).hP2 = s.hP2 := rfl
@[simp] theorem State.setAAddr_inMem : (s.setAAddr v).inMem = s.inMem := rfl
@[simp] theorem State.setAAddr_nameMem : (s.setAAddr v).nameMem = s.nameMem := rfl
@[simp] theorem State.setAAddr_outMem : (s.setAAddr v).outMem = s.outMem := rfl
@[simp] theorem State.setAAddr_recMem : (s.setAAddr v).recMem = s.recMem := rfl
@[simp] theorem State.setAAddr_moved : (s.setAAddr v).moved = s.moved := rfl
@[simp] theorem State.setAAddr_host : (s.setAAddr v).host = s.host := rfl
@[simp] theorem State.setAAddr_reply : (s.setAAddr v).reply = s.reply := rfl
@[simp] theorem State.setAAddr_epoch : (s.setAAddr v).epoch = s.epoch := rfl
@[simp] theorem State.setAAddr_free : (s.setAAddr v).free = s.free := rfl
@[simp] theorem State.setAAddr_fit (x : Nat) : (s.setAAddr v).fit x = s.fit x := rfl
end

/-! ### setInLen -/
section
variable (s : State) (v : Nat)
@[simp] theorem State.setInLen_params : (s.setInLen v).params = s.params := rfl
@[simp] theorem State.setInLen_status : (s.setInLen v).status = s.status := rfl
@[simp] theorem State.setInLen_aDlen : (s.setInLen v).aDlen = s.aDlen := rfl
@[simp] theorem State.setInLen_aAddr : (s.setInLen v).aAddr = s.aAddr := rfl
@[simp] theorem State.setInLen_inLen : (s.setInLen v).inLen = s.fit v := rfl
@[simp] theorem State.setInLen_nameLen : (s.setInLen v).nameLen = s.nameLen := rfl
@[simp] theorem State.setInLen_outLen : (s.setInLen v).outLen = s.outLen := rfl
@[simp] theorem State.setInLen_recCnt : (s.setInLen v).recCnt = s.recCnt := rfl
@[simp] theorem State.setInLen_warnCnt : (s.setInLen v).warnCnt = s.warnCnt := rfl
@[simp] theorem State.setInLen_acc : (s.setInLen v).acc = s.acc := rfl
@[simp] theorem State.setInLen_cur : (s.setInLen v).cur = s.cur := rfl
@[simp] theorem State.setInLen_len : (s.setInLen v).len = s.len := rfl
@[simp] theorem State.setInLen_flag : (s.setInLen v).flag = s.flag := rfl
@[simp] theorem State.setInLen_chk : (s.setInLen v).chk = s.chk := rfl
@[simp] theorem State.setInLen_hType : (s.setInLen v).hType = s.hType := rfl
@[simp] theorem State.setInLen_hName : (s.setInLen v).hName = s.hName := rfl
@[simp] theorem State.setInLen_hNlen : (s.setInLen v).hNlen = s.hNlen := rfl
@[simp] theorem State.setInLen_hDlen : (s.setInLen v).hDlen = s.hDlen := rfl
@[simp] theorem State.setInLen_hP1 : (s.setInLen v).hP1 = s.hP1 := rfl
@[simp] theorem State.setInLen_hP2 : (s.setInLen v).hP2 = s.hP2 := rfl
@[simp] theorem State.setInLen_inMem : (s.setInLen v).inMem = s.inMem := rfl
@[simp] theorem State.setInLen_nameMem : (s.setInLen v).nameMem = s.nameMem := rfl
@[simp] theorem State.setInLen_outMem : (s.setInLen v).outMem = s.outMem := rfl
@[simp] theorem State.setInLen_recMem : (s.setInLen v).recMem = s.recMem := rfl
@[simp] theorem State.setInLen_moved : (s.setInLen v).moved = s.moved := rfl
@[simp] theorem State.setInLen_host : (s.setInLen v).host = s.host := rfl
@[simp] theorem State.setInLen_reply : (s.setInLen v).reply = s.reply := rfl
@[simp] theorem State.setInLen_epoch : (s.setInLen v).epoch = s.epoch := rfl
@[simp] theorem State.setInLen_free : (s.setInLen v).free = s.free := rfl
@[simp] theorem State.setInLen_fit (x : Nat) : (s.setInLen v).fit x = s.fit x := rfl
end

/-! ### setNameLen -/
section
variable (s : State) (v : Nat)
@[simp] theorem State.setNameLen_params : (s.setNameLen v).params = s.params := rfl
@[simp] theorem State.setNameLen_status : (s.setNameLen v).status = s.status := rfl
@[simp] theorem State.setNameLen_aDlen : (s.setNameLen v).aDlen = s.aDlen := rfl
@[simp] theorem State.setNameLen_aAddr : (s.setNameLen v).aAddr = s.aAddr := rfl
@[simp] theorem State.setNameLen_inLen : (s.setNameLen v).inLen = s.inLen := rfl
@[simp] theorem State.setNameLen_nameLen : (s.setNameLen v).nameLen = s.fit v := rfl
@[simp] theorem State.setNameLen_outLen : (s.setNameLen v).outLen = s.outLen := rfl
@[simp] theorem State.setNameLen_recCnt : (s.setNameLen v).recCnt = s.recCnt := rfl
@[simp] theorem State.setNameLen_warnCnt : (s.setNameLen v).warnCnt = s.warnCnt := rfl
@[simp] theorem State.setNameLen_acc : (s.setNameLen v).acc = s.acc := rfl
@[simp] theorem State.setNameLen_cur : (s.setNameLen v).cur = s.cur := rfl
@[simp] theorem State.setNameLen_len : (s.setNameLen v).len = s.len := rfl
@[simp] theorem State.setNameLen_flag : (s.setNameLen v).flag = s.flag := rfl
@[simp] theorem State.setNameLen_chk : (s.setNameLen v).chk = s.chk := rfl
@[simp] theorem State.setNameLen_hType : (s.setNameLen v).hType = s.hType := rfl
@[simp] theorem State.setNameLen_hName : (s.setNameLen v).hName = s.hName := rfl
@[simp] theorem State.setNameLen_hNlen : (s.setNameLen v).hNlen = s.hNlen := rfl
@[simp] theorem State.setNameLen_hDlen : (s.setNameLen v).hDlen = s.hDlen := rfl
@[simp] theorem State.setNameLen_hP1 : (s.setNameLen v).hP1 = s.hP1 := rfl
@[simp] theorem State.setNameLen_hP2 : (s.setNameLen v).hP2 = s.hP2 := rfl
@[simp] theorem State.setNameLen_inMem : (s.setNameLen v).inMem = s.inMem := rfl
@[simp] theorem State.setNameLen_nameMem : (s.setNameLen v).nameMem = s.nameMem := rfl
@[simp] theorem State.setNameLen_outMem : (s.setNameLen v).outMem = s.outMem := rfl
@[simp] theorem State.setNameLen_recMem : (s.setNameLen v).recMem = s.recMem := rfl
@[simp] theorem State.setNameLen_moved : (s.setNameLen v).moved = s.moved := rfl
@[simp] theorem State.setNameLen_host : (s.setNameLen v).host = s.host := rfl
@[simp] theorem State.setNameLen_reply : (s.setNameLen v).reply = s.reply := rfl
@[simp] theorem State.setNameLen_epoch : (s.setNameLen v).epoch = s.epoch := rfl
@[simp] theorem State.setNameLen_free : (s.setNameLen v).free = s.free := rfl
@[simp] theorem State.setNameLen_fit (x : Nat) : (s.setNameLen v).fit x = s.fit x := rfl
end

/-! ### setOutLen -/
section
variable (s : State) (v : Nat)
@[simp] theorem State.setOutLen_params : (s.setOutLen v).params = s.params := rfl
@[simp] theorem State.setOutLen_status : (s.setOutLen v).status = s.status := rfl
@[simp] theorem State.setOutLen_aDlen : (s.setOutLen v).aDlen = s.aDlen := rfl
@[simp] theorem State.setOutLen_aAddr : (s.setOutLen v).aAddr = s.aAddr := rfl
@[simp] theorem State.setOutLen_inLen : (s.setOutLen v).inLen = s.inLen := rfl
@[simp] theorem State.setOutLen_nameLen : (s.setOutLen v).nameLen = s.nameLen := rfl
@[simp] theorem State.setOutLen_outLen : (s.setOutLen v).outLen = s.fit v := rfl
@[simp] theorem State.setOutLen_recCnt : (s.setOutLen v).recCnt = s.recCnt := rfl
@[simp] theorem State.setOutLen_warnCnt : (s.setOutLen v).warnCnt = s.warnCnt := rfl
@[simp] theorem State.setOutLen_acc : (s.setOutLen v).acc = s.acc := rfl
@[simp] theorem State.setOutLen_cur : (s.setOutLen v).cur = s.cur := rfl
@[simp] theorem State.setOutLen_len : (s.setOutLen v).len = s.len := rfl
@[simp] theorem State.setOutLen_flag : (s.setOutLen v).flag = s.flag := rfl
@[simp] theorem State.setOutLen_chk : (s.setOutLen v).chk = s.chk := rfl
@[simp] theorem State.setOutLen_hType : (s.setOutLen v).hType = s.hType := rfl
@[simp] theorem State.setOutLen_hName : (s.setOutLen v).hName = s.hName := rfl
@[simp] theorem State.setOutLen_hNlen : (s.setOutLen v).hNlen = s.hNlen := rfl
@[simp] theorem State.setOutLen_hDlen : (s.setOutLen v).hDlen = s.hDlen := rfl
@[simp] theorem State.setOutLen_hP1 : (s.setOutLen v).hP1 = s.hP1 := rfl
@[simp] theorem State.setOutLen_hP2 : (s.setOutLen v).hP2 = s.hP2 := rfl
@[simp] theorem State.setOutLen_inMem : (s.setOutLen v).inMem = s.inMem := rfl
@[simp] theorem State.setOutLen_nameMem : (s.setOutLen v).nameMem = s.nameMem := rfl
@[simp] theorem State.setOutLen_outMem : (s.setOutLen v).outMem = s.outMem := rfl
@[simp] theorem State.setOutLen_recMem : (s.setOutLen v).recMem = s.recMem := rfl
@[simp] theorem State.setOutLen_moved : (s.setOutLen v).moved = s.moved := rfl
@[simp] theorem State.setOutLen_host : (s.setOutLen v).host = s.host := rfl
@[simp] theorem State.setOutLen_reply : (s.setOutLen v).reply = s.reply := rfl
@[simp] theorem State.setOutLen_epoch : (s.setOutLen v).epoch = s.epoch := rfl
@[simp] theorem State.setOutLen_free : (s.setOutLen v).free = s.free := rfl
@[simp] theorem State.setOutLen_fit (x : Nat) : (s.setOutLen v).fit x = s.fit x := rfl
end

/-! ### setRecCnt -/
section
variable (s : State) (v : Nat)
@[simp] theorem State.setRecCnt_params : (s.setRecCnt v).params = s.params := rfl
@[simp] theorem State.setRecCnt_status : (s.setRecCnt v).status = s.status := rfl
@[simp] theorem State.setRecCnt_aDlen : (s.setRecCnt v).aDlen = s.aDlen := rfl
@[simp] theorem State.setRecCnt_aAddr : (s.setRecCnt v).aAddr = s.aAddr := rfl
@[simp] theorem State.setRecCnt_inLen : (s.setRecCnt v).inLen = s.inLen := rfl
@[simp] theorem State.setRecCnt_nameLen : (s.setRecCnt v).nameLen = s.nameLen := rfl
@[simp] theorem State.setRecCnt_outLen : (s.setRecCnt v).outLen = s.outLen := rfl
@[simp] theorem State.setRecCnt_recCnt : (s.setRecCnt v).recCnt = s.fit v := rfl
@[simp] theorem State.setRecCnt_warnCnt : (s.setRecCnt v).warnCnt = s.warnCnt := rfl
@[simp] theorem State.setRecCnt_acc : (s.setRecCnt v).acc = s.acc := rfl
@[simp] theorem State.setRecCnt_cur : (s.setRecCnt v).cur = s.cur := rfl
@[simp] theorem State.setRecCnt_len : (s.setRecCnt v).len = s.len := rfl
@[simp] theorem State.setRecCnt_flag : (s.setRecCnt v).flag = s.flag := rfl
@[simp] theorem State.setRecCnt_chk : (s.setRecCnt v).chk = s.chk := rfl
@[simp] theorem State.setRecCnt_hType : (s.setRecCnt v).hType = s.hType := rfl
@[simp] theorem State.setRecCnt_hName : (s.setRecCnt v).hName = s.hName := rfl
@[simp] theorem State.setRecCnt_hNlen : (s.setRecCnt v).hNlen = s.hNlen := rfl
@[simp] theorem State.setRecCnt_hDlen : (s.setRecCnt v).hDlen = s.hDlen := rfl
@[simp] theorem State.setRecCnt_hP1 : (s.setRecCnt v).hP1 = s.hP1 := rfl
@[simp] theorem State.setRecCnt_hP2 : (s.setRecCnt v).hP2 = s.hP2 := rfl
@[simp] theorem State.setRecCnt_inMem : (s.setRecCnt v).inMem = s.inMem := rfl
@[simp] theorem State.setRecCnt_nameMem : (s.setRecCnt v).nameMem = s.nameMem := rfl
@[simp] theorem State.setRecCnt_outMem : (s.setRecCnt v).outMem = s.outMem := rfl
@[simp] theorem State.setRecCnt_recMem : (s.setRecCnt v).recMem = s.recMem := rfl
@[simp] theorem State.setRecCnt_moved : (s.setRecCnt v).moved = s.moved := rfl
@[simp] theorem State.setRecCnt_host : (s.setRecCnt v).host = s.host := rfl
@[simp] theorem State.setRecCnt_reply : (s.setRecCnt v).reply = s.reply := rfl
@[simp] theorem State.setRecCnt_epoch : (s.setRecCnt v).epoch = s.epoch := rfl
@[simp] theorem State.setRecCnt_free : (s.setRecCnt v).free = s.free := rfl
@[simp] theorem State.setRecCnt_fit (x : Nat) : (s.setRecCnt v).fit x = s.fit x := rfl
end

/-! ### setWarnCnt -/
section
variable (s : State) (v : Nat)
@[simp] theorem State.setWarnCnt_params : (s.setWarnCnt v).params = s.params := rfl
@[simp] theorem State.setWarnCnt_status : (s.setWarnCnt v).status = s.status := rfl
@[simp] theorem State.setWarnCnt_aDlen : (s.setWarnCnt v).aDlen = s.aDlen := rfl
@[simp] theorem State.setWarnCnt_aAddr : (s.setWarnCnt v).aAddr = s.aAddr := rfl
@[simp] theorem State.setWarnCnt_inLen : (s.setWarnCnt v).inLen = s.inLen := rfl
@[simp] theorem State.setWarnCnt_nameLen : (s.setWarnCnt v).nameLen = s.nameLen := rfl
@[simp] theorem State.setWarnCnt_outLen : (s.setWarnCnt v).outLen = s.outLen := rfl
@[simp] theorem State.setWarnCnt_recCnt : (s.setWarnCnt v).recCnt = s.recCnt := rfl
@[simp] theorem State.setWarnCnt_warnCnt : (s.setWarnCnt v).warnCnt = s.fit v := rfl
@[simp] theorem State.setWarnCnt_acc : (s.setWarnCnt v).acc = s.acc := rfl
@[simp] theorem State.setWarnCnt_cur : (s.setWarnCnt v).cur = s.cur := rfl
@[simp] theorem State.setWarnCnt_len : (s.setWarnCnt v).len = s.len := rfl
@[simp] theorem State.setWarnCnt_flag : (s.setWarnCnt v).flag = s.flag := rfl
@[simp] theorem State.setWarnCnt_chk : (s.setWarnCnt v).chk = s.chk := rfl
@[simp] theorem State.setWarnCnt_hType : (s.setWarnCnt v).hType = s.hType := rfl
@[simp] theorem State.setWarnCnt_hName : (s.setWarnCnt v).hName = s.hName := rfl
@[simp] theorem State.setWarnCnt_hNlen : (s.setWarnCnt v).hNlen = s.hNlen := rfl
@[simp] theorem State.setWarnCnt_hDlen : (s.setWarnCnt v).hDlen = s.hDlen := rfl
@[simp] theorem State.setWarnCnt_hP1 : (s.setWarnCnt v).hP1 = s.hP1 := rfl
@[simp] theorem State.setWarnCnt_hP2 : (s.setWarnCnt v).hP2 = s.hP2 := rfl
@[simp] theorem State.setWarnCnt_inMem : (s.setWarnCnt v).inMem = s.inMem := rfl
@[simp] theorem State.setWarnCnt_nameMem : (s.setWarnCnt v).nameMem = s.nameMem := rfl
@[simp] theorem State.setWarnCnt_outMem : (s.setWarnCnt v).outMem = s.outMem := rfl
@[simp] theorem State.setWarnCnt_recMem : (s.setWarnCnt v).recMem = s.recMem := rfl
@[simp] theorem State.setWarnCnt_moved : (s.setWarnCnt v).moved = s.moved := rfl
@[simp] theorem State.setWarnCnt_host : (s.setWarnCnt v).host = s.host := rfl
@[simp] theorem State.setWarnCnt_reply : (s.setWarnCnt v).reply = s.reply := rfl
@[simp] theorem State.setWarnCnt_epoch : (s.setWarnCnt v).epoch = s.epoch := rfl
@[simp] theorem State.setWarnCnt_free : (s.setWarnCnt v).free = s.free := rfl
@[simp] theorem State.setWarnCnt_fit (x : Nat) : (s.setWarnCnt v).fit x = s.fit x := rfl
end

/-! ### setAcc -/
section
variable (s : State) (b : Byte)
@[simp] theorem State.setAcc_params : (s.setAcc b).params = s.params := rfl
@[simp] theorem State.setAcc_status : (s.setAcc b).status = s.status := rfl
@[simp] theorem State.setAcc_aDlen : (s.setAcc b).aDlen = s.aDlen := rfl
@[simp] theorem State.setAcc_aAddr : (s.setAcc b).aAddr = s.aAddr := rfl
@[simp] theorem State.setAcc_inLen : (s.setAcc b).inLen = s.inLen := rfl
@[simp] theorem State.setAcc_nameLen : (s.setAcc b).nameLen = s.nameLen := rfl
@[simp] theorem State.setAcc_outLen : (s.setAcc b).outLen = s.outLen := rfl
@[simp] theorem State.setAcc_recCnt : (s.setAcc b).recCnt = s.recCnt := rfl
@[simp] theorem State.setAcc_warnCnt : (s.setAcc b).warnCnt = s.warnCnt := rfl
@[simp] theorem State.setAcc_acc : (s.setAcc b).acc = b := rfl
@[simp] theorem State.setAcc_cur : (s.setAcc b).cur = s.cur := rfl
@[simp] theorem State.setAcc_len : (s.setAcc b).len = s.len := rfl
@[simp] theorem State.setAcc_flag : (s.setAcc b).flag = s.flag := rfl
@[simp] theorem State.setAcc_chk : (s.setAcc b).chk = s.chk := rfl
@[simp] theorem State.setAcc_hType : (s.setAcc b).hType = s.hType := rfl
@[simp] theorem State.setAcc_hName : (s.setAcc b).hName = s.hName := rfl
@[simp] theorem State.setAcc_hNlen : (s.setAcc b).hNlen = s.hNlen := rfl
@[simp] theorem State.setAcc_hDlen : (s.setAcc b).hDlen = s.hDlen := rfl
@[simp] theorem State.setAcc_hP1 : (s.setAcc b).hP1 = s.hP1 := rfl
@[simp] theorem State.setAcc_hP2 : (s.setAcc b).hP2 = s.hP2 := rfl
@[simp] theorem State.setAcc_inMem : (s.setAcc b).inMem = s.inMem := rfl
@[simp] theorem State.setAcc_nameMem : (s.setAcc b).nameMem = s.nameMem := rfl
@[simp] theorem State.setAcc_outMem : (s.setAcc b).outMem = s.outMem := rfl
@[simp] theorem State.setAcc_recMem : (s.setAcc b).recMem = s.recMem := rfl
@[simp] theorem State.setAcc_moved : (s.setAcc b).moved = s.moved := rfl
@[simp] theorem State.setAcc_host : (s.setAcc b).host = s.host := rfl
@[simp] theorem State.setAcc_reply : (s.setAcc b).reply = s.reply := rfl
@[simp] theorem State.setAcc_epoch : (s.setAcc b).epoch = s.epoch := rfl
@[simp] theorem State.setAcc_free : (s.setAcc b).free = s.free := rfl
@[simp] theorem State.setAcc_fit (x : Nat) : (s.setAcc b).fit x = s.fit x := rfl
end

/-! ### setCur -/
section
variable (s : State) (v : Nat)
@[simp] theorem State.setCur_params : (s.setCur v).params = s.params := rfl
@[simp] theorem State.setCur_status : (s.setCur v).status = s.status := rfl
@[simp] theorem State.setCur_aDlen : (s.setCur v).aDlen = s.aDlen := rfl
@[simp] theorem State.setCur_aAddr : (s.setCur v).aAddr = s.aAddr := rfl
@[simp] theorem State.setCur_inLen : (s.setCur v).inLen = s.inLen := rfl
@[simp] theorem State.setCur_nameLen : (s.setCur v).nameLen = s.nameLen := rfl
@[simp] theorem State.setCur_outLen : (s.setCur v).outLen = s.outLen := rfl
@[simp] theorem State.setCur_recCnt : (s.setCur v).recCnt = s.recCnt := rfl
@[simp] theorem State.setCur_warnCnt : (s.setCur v).warnCnt = s.warnCnt := rfl
@[simp] theorem State.setCur_acc : (s.setCur v).acc = s.acc := rfl
@[simp] theorem State.setCur_cur : (s.setCur v).cur = s.fit v := rfl
@[simp] theorem State.setCur_len : (s.setCur v).len = s.len := rfl
@[simp] theorem State.setCur_flag : (s.setCur v).flag = s.flag := rfl
@[simp] theorem State.setCur_chk : (s.setCur v).chk = s.chk := rfl
@[simp] theorem State.setCur_hType : (s.setCur v).hType = s.hType := rfl
@[simp] theorem State.setCur_hName : (s.setCur v).hName = s.hName := rfl
@[simp] theorem State.setCur_hNlen : (s.setCur v).hNlen = s.hNlen := rfl
@[simp] theorem State.setCur_hDlen : (s.setCur v).hDlen = s.hDlen := rfl
@[simp] theorem State.setCur_hP1 : (s.setCur v).hP1 = s.hP1 := rfl
@[simp] theorem State.setCur_hP2 : (s.setCur v).hP2 = s.hP2 := rfl
@[simp] theorem State.setCur_inMem : (s.setCur v).inMem = s.inMem := rfl
@[simp] theorem State.setCur_nameMem : (s.setCur v).nameMem = s.nameMem := rfl
@[simp] theorem State.setCur_outMem : (s.setCur v).outMem = s.outMem := rfl
@[simp] theorem State.setCur_recMem : (s.setCur v).recMem = s.recMem := rfl
@[simp] theorem State.setCur_moved : (s.setCur v).moved = s.moved := rfl
@[simp] theorem State.setCur_host : (s.setCur v).host = s.host := rfl
@[simp] theorem State.setCur_reply : (s.setCur v).reply = s.reply := rfl
@[simp] theorem State.setCur_epoch : (s.setCur v).epoch = s.epoch := rfl
@[simp] theorem State.setCur_free : (s.setCur v).free = s.free := rfl
@[simp] theorem State.setCur_fit (x : Nat) : (s.setCur v).fit x = s.fit x := rfl
end

/-! ### setLen -/
section
variable (s : State) (v : U16)
@[simp] theorem State.setLen_params : (s.setLen v).params = s.params := rfl
@[simp] theorem State.setLen_status : (s.setLen v).status = s.status := rfl
@[simp] theorem State.setLen_aDlen : (s.setLen v).aDlen = s.aDlen := rfl
@[simp] theorem State.setLen_aAddr : (s.setLen v).aAddr = s.aAddr := rfl
@[simp] theorem State.setLen_inLen : (s.setLen v).inLen = s.inLen := rfl
@[simp] theorem State.setLen_nameLen : (s.setLen v).nameLen = s.nameLen := rfl
@[simp] theorem State.setLen_outLen : (s.setLen v).outLen = s.outLen := rfl
@[simp] theorem State.setLen_recCnt : (s.setLen v).recCnt = s.recCnt := rfl
@[simp] theorem State.setLen_warnCnt : (s.setLen v).warnCnt = s.warnCnt := rfl
@[simp] theorem State.setLen_acc : (s.setLen v).acc = s.acc := rfl
@[simp] theorem State.setLen_cur : (s.setLen v).cur = s.cur := rfl
@[simp] theorem State.setLen_len : (s.setLen v).len = v := rfl
@[simp] theorem State.setLen_flag : (s.setLen v).flag = s.flag := rfl
@[simp] theorem State.setLen_chk : (s.setLen v).chk = s.chk := rfl
@[simp] theorem State.setLen_hType : (s.setLen v).hType = s.hType := rfl
@[simp] theorem State.setLen_hName : (s.setLen v).hName = s.hName := rfl
@[simp] theorem State.setLen_hNlen : (s.setLen v).hNlen = s.hNlen := rfl
@[simp] theorem State.setLen_hDlen : (s.setLen v).hDlen = s.hDlen := rfl
@[simp] theorem State.setLen_hP1 : (s.setLen v).hP1 = s.hP1 := rfl
@[simp] theorem State.setLen_hP2 : (s.setLen v).hP2 = s.hP2 := rfl
@[simp] theorem State.setLen_inMem : (s.setLen v).inMem = s.inMem := rfl
@[simp] theorem State.setLen_nameMem : (s.setLen v).nameMem = s.nameMem := rfl
@[simp] theorem State.setLen_outMem : (s.setLen v).outMem = s.outMem := rfl
@[simp] theorem State.setLen_recMem : (s.setLen v).recMem = s.recMem := rfl
@[simp] theorem State.setLen_moved : (s.setLen v).moved = s.moved := rfl
@[simp] theorem State.setLen_host : (s.setLen v).host = s.host := rfl
@[simp] theorem State.setLen_reply : (s.setLen v).reply = s.reply := rfl
@[simp] theorem State.setLen_epoch : (s.setLen v).epoch = s.epoch := rfl
@[simp] theorem State.setLen_free : (s.setLen v).free = s.free := rfl
@[simp] theorem State.setLen_fit (x : Nat) : (s.setLen v).fit x = s.fit x := rfl
end

/-! ### setFlag -/
section
variable (s : State) (b : Byte)
@[simp] theorem State.setFlag_params : (s.setFlag b).params = s.params := rfl
@[simp] theorem State.setFlag_status : (s.setFlag b).status = s.status := rfl
@[simp] theorem State.setFlag_aDlen : (s.setFlag b).aDlen = s.aDlen := rfl
@[simp] theorem State.setFlag_aAddr : (s.setFlag b).aAddr = s.aAddr := rfl
@[simp] theorem State.setFlag_inLen : (s.setFlag b).inLen = s.inLen := rfl
@[simp] theorem State.setFlag_nameLen : (s.setFlag b).nameLen = s.nameLen := rfl
@[simp] theorem State.setFlag_outLen : (s.setFlag b).outLen = s.outLen := rfl
@[simp] theorem State.setFlag_recCnt : (s.setFlag b).recCnt = s.recCnt := rfl
@[simp] theorem State.setFlag_warnCnt : (s.setFlag b).warnCnt = s.warnCnt := rfl
@[simp] theorem State.setFlag_acc : (s.setFlag b).acc = s.acc := rfl
@[simp] theorem State.setFlag_cur : (s.setFlag b).cur = s.cur := rfl
@[simp] theorem State.setFlag_len : (s.setFlag b).len = s.len := rfl
@[simp] theorem State.setFlag_flag : (s.setFlag b).flag = b := rfl
@[simp] theorem State.setFlag_chk : (s.setFlag b).chk = s.chk := rfl
@[simp] theorem State.setFlag_hType : (s.setFlag b).hType = s.hType := rfl
@[simp] theorem State.setFlag_hName : (s.setFlag b).hName = s.hName := rfl
@[simp] theorem State.setFlag_hNlen : (s.setFlag b).hNlen = s.hNlen := rfl
@[simp] theorem State.setFlag_hDlen : (s.setFlag b).hDlen = s.hDlen := rfl
@[simp] theorem State.setFlag_hP1 : (s.setFlag b).hP1 = s.hP1 := rfl
@[simp] theorem State.setFlag_hP2 : (s.setFlag b).hP2 = s.hP2 := rfl
@[simp] theorem State.setFlag_inMem : (s.setFlag b).inMem = s.inMem := rfl
@[simp] theorem State.setFlag_nameMem : (s.setFlag b).nameMem = s.nameMem := rfl
@[simp] theorem State.setFlag_outMem : (s.setFlag b).outMem = s.outMem := rfl
@[simp] theorem State.setFlag_recMem : (s.setFlag b).recMem = s.recMem := rfl
@[simp] theorem State.setFlag_moved : (s.setFlag b).moved = s.moved := rfl
@[simp] theorem State.setFlag_host : (s.setFlag b).host = s.host := rfl
@[simp] theorem State.setFlag_reply : (s.setFlag b).reply = s.reply := rfl
@[simp] theorem State.setFlag_epoch : (s.setFlag b).epoch = s.epoch := rfl
@[simp] theorem State.setFlag_free : (s.setFlag b).free = s.free := rfl
@[simp] theorem State.setFlag_fit (x : Nat) : (s.setFlag b).fit x = s.fit x := rfl
end

/-! ### setChk -/
section
variable (s : State) (b : Byte)
@[simp] theorem State.setChk_params : (s.setChk b).params = s.params := rfl
@[simp] theorem State.setChk_status : (s.setChk b).status = s.status := rfl
@[simp] theorem State.setChk_aDlen : (s.setChk b).aDlen = s.aDlen := rfl
@[simp] theorem State.setChk_aAddr : (s.setChk b).aAddr = s.aAddr := rfl
@[simp] theorem State.setChk_inLen : (s.setChk b).inLen = s.inLen := rfl
@[simp] theorem State.setChk_nameLen : (s.setChk b).nameLen = s.nameLen := rfl
@[simp] theorem State.setChk_outLen : (s.setChk b).outLen = s.outLen := rfl
@[simp] theorem State.setChk_recCnt : (s.setChk b).recCnt = s.recCnt := rfl
@[simp] theorem State.setChk_warnCnt : (s.setChk b).warnCnt = s.warnCnt := rfl
@[simp] theorem State.setChk_acc : (s.setChk b).acc = s.acc := rfl
@[simp] theorem State.setChk_cur : (s.setChk b).cur = s.cur := rfl
@[simp] theorem State.setChk_len : (s.setChk b).len = s.len := rfl
@[simp] theorem State.setChk_flag : (s.setChk b).flag = s.flag := rfl
@[simp] theorem State.setChk_chk : (s.setChk b).chk = b := rfl
@[simp] theorem State.setChk_hType : (s.setChk b).hType = s.hType := rfl
@[simp] theorem State.setChk_hName : (s.setChk b).hName = s.hName := rfl
@[simp] theorem State.setChk_hNlen : (s.setChk b).hNlen = s.hNlen := rfl
@[simp] theorem State.setChk_hDlen : (s.setChk b).hDlen = s.hDlen := rfl
@[simp] theorem State.setChk_hP1 : (s.setChk b).hP1 = s.hP1 := rfl
@[simp] theorem State.setChk_hP2 : (s.setChk b).hP2 = s.hP2 := rfl
@[simp] theorem State.setChk_inMem : (s.setChk b).inMem = s.inMem := rfl
@[simp] theorem State.setChk_nameMem : (s.setChk b).nameMem = s.nameMem := rfl
@[simp] theorem State.setChk_outMem : (s.setChk b).outMem = s.outMem := rfl
@[simp] theorem State.setChk_recMem : (s.setChk b).recMem = s.recMem := rfl
@[simp] theorem State.setChk_moved : (s.setChk b).moved = s.moved := rfl
@[simp] theorem State.setChk_host : (s.setChk b).host = s.host := rfl
@[simp] theorem State.setChk_reply : (s.setChk b).reply = s.reply := rfl
@[simp] theorem State.setChk_epoch : (s.setChk b).epoch = s.epoch := rfl
@[simp] theorem State.setChk_free : (s.setChk b).free = s.free := rfl
@[simp] theorem State.setChk_fit (x : Nat) : (s.setChk b).fit x = s.fit x := rfl
end

/-! ### setFields -/
section
variable (s : State) (ty : Byte) (nm : Vector Byte 10) (dl p1 p2 : U16)
@[simp] theorem State.setFields_params : (s.setFields ty nm dl p1 p2).params = s.params := rfl
@[simp] theorem State.setFields_status : (s.setFields ty nm dl p1 p2).status = s.status := rfl
@[simp] theorem State.setFields_aDlen : (s.setFields ty nm dl p1 p2).aDlen = s.aDlen := rfl
@[simp] theorem State.setFields_aAddr : (s.setFields ty nm dl p1 p2).aAddr = s.aAddr := rfl
@[simp] theorem State.setFields_inLen : (s.setFields ty nm dl p1 p2).inLen = s.inLen := rfl
@[simp] theorem State.setFields_nameLen : (s.setFields ty nm dl p1 p2).nameLen = s.nameLen := rfl
@[simp] theorem State.setFields_outLen : (s.setFields ty nm dl p1 p2).outLen = s.outLen := rfl
@[simp] theorem State.setFields_recCnt : (s.setFields ty nm dl p1 p2).recCnt = s.recCnt := rfl
@[simp] theorem State.setFields_warnCnt : (s.setFields ty nm dl p1 p2).warnCnt = s.warnCnt := rfl
@[simp] theorem State.setFields_acc : (s.setFields ty nm dl p1 p2).acc = s.acc := rfl
@[simp] theorem State.setFields_cur : (s.setFields ty nm dl p1 p2).cur = s.cur := rfl
@[simp] theorem State.setFields_len : (s.setFields ty nm dl p1 p2).len = s.len := rfl
@[simp] theorem State.setFields_flag : (s.setFields ty nm dl p1 p2).flag = s.flag := rfl
@[simp] theorem State.setFields_chk : (s.setFields ty nm dl p1 p2).chk = s.chk := rfl
@[simp] theorem State.setFields_hType : (s.setFields ty nm dl p1 p2).hType = ty := rfl
@[simp] theorem State.setFields_hName : (s.setFields ty nm dl p1 p2).hName = nm := rfl
@[simp] theorem State.setFields_hNlen : (s.setFields ty nm dl p1 p2).hNlen = s.hNlen := rfl
@[simp] theorem State.setFields_hDlen : (s.setFields ty nm dl p1 p2).hDlen = dl := rfl
@[simp] theorem State.setFields_hP1 : (s.setFields ty nm dl p1 p2).hP1 = p1 := rfl
@[simp] theorem State.setFields_hP2 : (s.setFields ty nm dl p1 p2).hP2 = p2 := rfl
@[simp] theorem State.setFields_inMem : (s.setFields ty nm dl p1 p2).inMem = s.inMem := rfl
@[simp] theorem State.setFields_nameMem : (s.setFields ty nm dl p1 p2).nameMem = s.nameMem := rfl
@[simp] theorem State.setFields_outMem : (s.setFields ty nm dl p1 p2).outMem = s.outMem := rfl
@[simp] theorem State.setFields_recMem : (s.setFields ty nm dl p1 p2).recMem = s.recMem := rfl
@[simp] theorem State.setFields_moved : (s.setFields ty nm dl p1 p2).moved = s.moved := rfl
@[simp] theorem State.setFields_host : (s.setFields ty nm dl p1 p2).host = s.host := rfl
@[simp] theorem State.setFields_reply : (s.setFields ty nm dl p1 p2).reply = s.reply := rfl
@[simp] theorem State.setFields_epoch : (s.setFields ty nm dl p1 p2).epoch = s.epoch := rfl
@[simp] theorem State.setFields_free : (s.setFields ty nm dl p1 p2).free = s.free := rfl
@[simp] theorem State.setFields_fit (x : Nat) : (s.setFields ty nm dl p1 p2).fit x = s.fit x := rfl
end

/-! ### setHNlen -/
section
variable (s : State) (k : BitVec 4)
@[simp] theorem State.setHNlen_params : (s.setHNlen k).params = s.params := rfl
@[simp] theorem State.setHNlen_status : (s.setHNlen k).status = s.status := rfl
@[simp] theorem State.setHNlen_aDlen : (s.setHNlen k).aDlen = s.aDlen := rfl
@[simp] theorem State.setHNlen_aAddr : (s.setHNlen k).aAddr = s.aAddr := rfl
@[simp] theorem State.setHNlen_inLen : (s.setHNlen k).inLen = s.inLen := rfl
@[simp] theorem State.setHNlen_nameLen : (s.setHNlen k).nameLen = s.nameLen := rfl
@[simp] theorem State.setHNlen_outLen : (s.setHNlen k).outLen = s.outLen := rfl
@[simp] theorem State.setHNlen_recCnt : (s.setHNlen k).recCnt = s.recCnt := rfl
@[simp] theorem State.setHNlen_warnCnt : (s.setHNlen k).warnCnt = s.warnCnt := rfl
@[simp] theorem State.setHNlen_acc : (s.setHNlen k).acc = s.acc := rfl
@[simp] theorem State.setHNlen_cur : (s.setHNlen k).cur = s.cur := rfl
@[simp] theorem State.setHNlen_len : (s.setHNlen k).len = s.len := rfl
@[simp] theorem State.setHNlen_flag : (s.setHNlen k).flag = s.flag := rfl
@[simp] theorem State.setHNlen_chk : (s.setHNlen k).chk = s.chk := rfl
@[simp] theorem State.setHNlen_hType : (s.setHNlen k).hType = s.hType := rfl
@[simp] theorem State.setHNlen_hName : (s.setHNlen k).hName = s.hName := rfl
@[simp] theorem State.setHNlen_hNlen : (s.setHNlen k).hNlen = k := rfl
@[simp] theorem State.setHNlen_hDlen : (s.setHNlen k).hDlen = s.hDlen := rfl
@[simp] theorem State.setHNlen_hP1 : (s.setHNlen k).hP1 = s.hP1 := rfl
@[simp] theorem State.setHNlen_hP2 : (s.setHNlen k).hP2 = s.hP2 := rfl
@[simp] theorem State.setHNlen_inMem : (s.setHNlen k).inMem = s.inMem := rfl
@[simp] theorem State.setHNlen_nameMem : (s.setHNlen k).nameMem = s.nameMem := rfl
@[simp] theorem State.setHNlen_outMem : (s.setHNlen k).outMem = s.outMem := rfl
@[simp] theorem State.setHNlen_recMem : (s.setHNlen k).recMem = s.recMem := rfl
@[simp] theorem State.setHNlen_moved : (s.setHNlen k).moved = s.moved := rfl
@[simp] theorem State.setHNlen_host : (s.setHNlen k).host = s.host := rfl
@[simp] theorem State.setHNlen_reply : (s.setHNlen k).reply = s.reply := rfl
@[simp] theorem State.setHNlen_epoch : (s.setHNlen k).epoch = s.epoch := rfl
@[simp] theorem State.setHNlen_free : (s.setHNlen k).free = s.free := rfl
@[simp] theorem State.setHNlen_fit (x : Nat) : (s.setHNlen k).fit x = s.fit x := rfl
end

/-! ### putIn -/
section
variable (s : State) (a : Nat) (b : Byte)
@[simp] theorem State.putIn_params : (s.putIn a b).params = s.params := rfl
@[simp] theorem State.putIn_status : (s.putIn a b).status = s.status := rfl
@[simp] theorem State.putIn_aDlen : (s.putIn a b).aDlen = s.aDlen := rfl
@[simp] theorem State.putIn_aAddr : (s.putIn a b).aAddr = s.aAddr := rfl
@[simp] theorem State.putIn_inLen : (s.putIn a b).inLen = s.inLen := rfl
@[simp] theorem State.putIn_nameLen : (s.putIn a b).nameLen = s.nameLen := rfl
@[simp] theorem State.putIn_outLen : (s.putIn a b).outLen = s.outLen := rfl
@[simp] theorem State.putIn_recCnt : (s.putIn a b).recCnt = s.recCnt := rfl
@[simp] theorem State.putIn_warnCnt : (s.putIn a b).warnCnt = s.warnCnt := rfl
@[simp] theorem State.putIn_acc : (s.putIn a b).acc = s.acc := rfl
@[simp] theorem State.putIn_cur : (s.putIn a b).cur = s.cur := rfl
@[simp] theorem State.putIn_len : (s.putIn a b).len = s.len := rfl
@[simp] theorem State.putIn_flag : (s.putIn a b).flag = s.flag := rfl
@[simp] theorem State.putIn_chk : (s.putIn a b).chk = s.chk := rfl
@[simp] theorem State.putIn_hType : (s.putIn a b).hType = s.hType := rfl
@[simp] theorem State.putIn_hName : (s.putIn a b).hName = s.hName := rfl
@[simp] theorem State.putIn_hNlen : (s.putIn a b).hNlen = s.hNlen := rfl
@[simp] theorem State.putIn_hDlen : (s.putIn a b).hDlen = s.hDlen := rfl
@[simp] theorem State.putIn_hP1 : (s.putIn a b).hP1 = s.hP1 := rfl
@[simp] theorem State.putIn_hP2 : (s.putIn a b).hP2 = s.hP2 := rfl
@[simp] theorem State.putIn_inMem : (s.putIn a b).inMem = Memory.write s.inMem a b := rfl
@[simp] theorem State.putIn_nameMem : (s.putIn a b).nameMem = s.nameMem := rfl
@[simp] theorem State.putIn_outMem : (s.putIn a b).outMem = s.outMem := rfl
@[simp] theorem State.putIn_recMem : (s.putIn a b).recMem = s.recMem := rfl
@[simp] theorem State.putIn_moved : (s.putIn a b).moved = s.moved := rfl
@[simp] theorem State.putIn_host : (s.putIn a b).host = s.host := rfl
@[simp] theorem State.putIn_reply : (s.putIn a b).reply = s.reply := rfl
@[simp] theorem State.putIn_epoch : (s.putIn a b).epoch = s.epoch := rfl
@[simp] theorem State.putIn_free : (s.putIn a b).free = s.free := rfl
@[simp] theorem State.putIn_fit (x : Nat) : (s.putIn a b).fit x = s.fit x := rfl
end

/-! ### putName -/
section
variable (s : State) (a : Nat) (b : Byte)
@[simp] theorem State.putName_params : (s.putName a b).params = s.params := rfl
@[simp] theorem State.putName_status : (s.putName a b).status = s.status := rfl
@[simp] theorem State.putName_aDlen : (s.putName a b).aDlen = s.aDlen := rfl
@[simp] theorem State.putName_aAddr : (s.putName a b).aAddr = s.aAddr := rfl
@[simp] theorem State.putName_inLen : (s.putName a b).inLen = s.inLen := rfl
@[simp] theorem State.putName_nameLen : (s.putName a b).nameLen = s.nameLen := rfl
@[simp] theorem State.putName_outLen : (s.putName a b).outLen = s.outLen := rfl
@[simp] theorem State.putName_recCnt : (s.putName a b).recCnt = s.recCnt := rfl
@[simp] theorem State.putName_warnCnt : (s.putName a b).warnCnt = s.warnCnt := rfl
@[simp] theorem State.putName_acc : (s.putName a b).acc = s.acc := rfl
@[simp] theorem State.putName_cur : (s.putName a b).cur = s.cur := rfl
@[simp] theorem State.putName_len : (s.putName a b).len = s.len := rfl
@[simp] theorem State.putName_flag : (s.putName a b).flag = s.flag := rfl
@[simp] theorem State.putName_chk : (s.putName a b).chk = s.chk := rfl
@[simp] theorem State.putName_hType : (s.putName a b).hType = s.hType := rfl
@[simp] theorem State.putName_hName : (s.putName a b).hName = s.hName := rfl
@[simp] theorem State.putName_hNlen : (s.putName a b).hNlen = s.hNlen := rfl
@[simp] theorem State.putName_hDlen : (s.putName a b).hDlen = s.hDlen := rfl
@[simp] theorem State.putName_hP1 : (s.putName a b).hP1 = s.hP1 := rfl
@[simp] theorem State.putName_hP2 : (s.putName a b).hP2 = s.hP2 := rfl
@[simp] theorem State.putName_inMem : (s.putName a b).inMem = s.inMem := rfl
@[simp] theorem State.putName_nameMem : (s.putName a b).nameMem = Memory.write s.nameMem a b := rfl
@[simp] theorem State.putName_outMem : (s.putName a b).outMem = s.outMem := rfl
@[simp] theorem State.putName_recMem : (s.putName a b).recMem = s.recMem := rfl
@[simp] theorem State.putName_moved : (s.putName a b).moved = s.moved := rfl
@[simp] theorem State.putName_host : (s.putName a b).host = s.host := rfl
@[simp] theorem State.putName_reply : (s.putName a b).reply = s.reply := rfl
@[simp] theorem State.putName_epoch : (s.putName a b).epoch = s.epoch := rfl
@[simp] theorem State.putName_free : (s.putName a b).free = s.free := rfl
@[simp] theorem State.putName_fit (x : Nat) : (s.putName a b).fit x = s.fit x := rfl
end

/-! ### putOut -/
section
variable (s : State) (a : Nat) (b : Byte)
@[simp] theorem State.putOut_params : (s.putOut a b).params = s.params := rfl
@[simp] theorem State.putOut_status : (s.putOut a b).status = s.status := rfl
@[simp] theorem State.putOut_aDlen : (s.putOut a b).aDlen = s.aDlen := rfl
@[simp] theorem State.putOut_aAddr : (s.putOut a b).aAddr = s.aAddr := rfl
@[simp] theorem State.putOut_inLen : (s.putOut a b).inLen = s.inLen := rfl
@[simp] theorem State.putOut_nameLen : (s.putOut a b).nameLen = s.nameLen := rfl
@[simp] theorem State.putOut_outLen : (s.putOut a b).outLen = s.outLen := rfl
@[simp] theorem State.putOut_recCnt : (s.putOut a b).recCnt = s.recCnt := rfl
@[simp] theorem State.putOut_warnCnt : (s.putOut a b).warnCnt = s.warnCnt := rfl
@[simp] theorem State.putOut_acc : (s.putOut a b).acc = s.acc := rfl
@[simp] theorem State.putOut_cur : (s.putOut a b).cur = s.cur := rfl
@[simp] theorem State.putOut_len : (s.putOut a b).len = s.len := rfl
@[simp] theorem State.putOut_flag : (s.putOut a b).flag = s.flag := rfl
@[simp] theorem State.putOut_chk : (s.putOut a b).chk = s.chk := rfl
@[simp] theorem State.putOut_hType : (s.putOut a b).hType = s.hType := rfl
@[simp] theorem State.putOut_hName : (s.putOut a b).hName = s.hName := rfl
@[simp] theorem State.putOut_hNlen : (s.putOut a b).hNlen = s.hNlen := rfl
@[simp] theorem State.putOut_hDlen : (s.putOut a b).hDlen = s.hDlen := rfl
@[simp] theorem State.putOut_hP1 : (s.putOut a b).hP1 = s.hP1 := rfl
@[simp] theorem State.putOut_hP2 : (s.putOut a b).hP2 = s.hP2 := rfl
@[simp] theorem State.putOut_inMem : (s.putOut a b).inMem = s.inMem := rfl
@[simp] theorem State.putOut_nameMem : (s.putOut a b).nameMem = s.nameMem := rfl
@[simp] theorem State.putOut_outMem : (s.putOut a b).outMem = Memory.write s.outMem a b := rfl
@[simp] theorem State.putOut_recMem : (s.putOut a b).recMem = s.recMem := rfl
@[simp] theorem State.putOut_moved : (s.putOut a b).moved = s.moved := rfl
@[simp] theorem State.putOut_host : (s.putOut a b).host = s.host := rfl
@[simp] theorem State.putOut_reply : (s.putOut a b).reply = s.reply := rfl
@[simp] theorem State.putOut_epoch : (s.putOut a b).epoch = s.epoch := rfl
@[simp] theorem State.putOut_free : (s.putOut a b).free = s.free := rfl
@[simp] theorem State.putOut_fit (x : Nat) : (s.putOut a b).fit x = s.fit x := rfl
end

/-! ### putRec -/
section
variable (s : State) (i : Nat) (r : BlockRecord)
@[simp] theorem State.putRec_params : (s.putRec i r).params = s.params := rfl
@[simp] theorem State.putRec_status : (s.putRec i r).status = s.status := rfl
@[simp] theorem State.putRec_aDlen : (s.putRec i r).aDlen = s.aDlen := rfl
@[simp] theorem State.putRec_aAddr : (s.putRec i r).aAddr = s.aAddr := rfl
@[simp] theorem State.putRec_inLen : (s.putRec i r).inLen = s.inLen := rfl
@[simp] theorem State.putRec_nameLen : (s.putRec i r).nameLen = s.nameLen := rfl
@[simp] theorem State.putRec_outLen : (s.putRec i r).outLen = s.outLen := rfl
@[simp] theorem State.putRec_recCnt : (s.putRec i r).recCnt = s.recCnt := rfl
@[simp] theorem State.putRec_warnCnt : (s.putRec i r).warnCnt = s.warnCnt := rfl
@[simp] theorem State.putRec_acc : (s.putRec i r).acc = s.acc := rfl
@[simp] theorem State.putRec_cur : (s.putRec i r).cur = s.cur := rfl
@[simp] theorem State.putRec_len : (s.putRec i r).len = s.len := rfl
@[simp] theorem State.putRec_flag : (s.putRec i r).flag = s.flag := rfl
@[simp] theorem State.putRec_chk : (s.putRec i r).chk = s.chk := rfl
@[simp] theorem State.putRec_hType : (s.putRec i r).hType = s.hType := rfl
@[simp] theorem State.putRec_hName : (s.putRec i r).hName = s.hName := rfl
@[simp] theorem State.putRec_hNlen : (s.putRec i r).hNlen = s.hNlen := rfl
@[simp] theorem State.putRec_hDlen : (s.putRec i r).hDlen = s.hDlen := rfl
@[simp] theorem State.putRec_hP1 : (s.putRec i r).hP1 = s.hP1 := rfl
@[simp] theorem State.putRec_hP2 : (s.putRec i r).hP2 = s.hP2 := rfl
@[simp] theorem State.putRec_inMem : (s.putRec i r).inMem = s.inMem := rfl
@[simp] theorem State.putRec_nameMem : (s.putRec i r).nameMem = s.nameMem := rfl
@[simp] theorem State.putRec_outMem : (s.putRec i r).outMem = s.outMem := rfl
@[simp] theorem State.putRec_recMem : (s.putRec i r).recMem = Memory.write s.recMem i r := rfl
@[simp] theorem State.putRec_moved : (s.putRec i r).moved = s.moved := rfl
@[simp] theorem State.putRec_host : (s.putRec i r).host = s.host := rfl
@[simp] theorem State.putRec_reply : (s.putRec i r).reply = s.reply := rfl
@[simp] theorem State.putRec_epoch : (s.putRec i r).epoch = s.epoch := rfl
@[simp] theorem State.putRec_free : (s.putRec i r).free = s.free := rfl
@[simp] theorem State.putRec_fit (x : Nat) : (s.putRec i r).fit x = s.fit x := rfl
end

/-! ### putMoved -/
section
variable (s : State) (a : Nat) (b : Byte)
@[simp] theorem State.putMoved_params : (s.putMoved a b).params = s.params := rfl
@[simp] theorem State.putMoved_status : (s.putMoved a b).status = s.status := rfl
@[simp] theorem State.putMoved_aDlen : (s.putMoved a b).aDlen = s.aDlen := rfl
@[simp] theorem State.putMoved_aAddr : (s.putMoved a b).aAddr = s.aAddr := rfl
@[simp] theorem State.putMoved_inLen : (s.putMoved a b).inLen = s.inLen := rfl
@[simp] theorem State.putMoved_nameLen : (s.putMoved a b).nameLen = s.nameLen := rfl
@[simp] theorem State.putMoved_outLen : (s.putMoved a b).outLen = s.outLen := rfl
@[simp] theorem State.putMoved_recCnt : (s.putMoved a b).recCnt = s.recCnt := rfl
@[simp] theorem State.putMoved_warnCnt : (s.putMoved a b).warnCnt = s.warnCnt := rfl
@[simp] theorem State.putMoved_acc : (s.putMoved a b).acc = s.acc := rfl
@[simp] theorem State.putMoved_cur : (s.putMoved a b).cur = s.cur := rfl
@[simp] theorem State.putMoved_len : (s.putMoved a b).len = s.len := rfl
@[simp] theorem State.putMoved_flag : (s.putMoved a b).flag = s.flag := rfl
@[simp] theorem State.putMoved_chk : (s.putMoved a b).chk = s.chk := rfl
@[simp] theorem State.putMoved_hType : (s.putMoved a b).hType = s.hType := rfl
@[simp] theorem State.putMoved_hName : (s.putMoved a b).hName = s.hName := rfl
@[simp] theorem State.putMoved_hNlen : (s.putMoved a b).hNlen = s.hNlen := rfl
@[simp] theorem State.putMoved_hDlen : (s.putMoved a b).hDlen = s.hDlen := rfl
@[simp] theorem State.putMoved_hP1 : (s.putMoved a b).hP1 = s.hP1 := rfl
@[simp] theorem State.putMoved_hP2 : (s.putMoved a b).hP2 = s.hP2 := rfl
@[simp] theorem State.putMoved_inMem : (s.putMoved a b).inMem = s.inMem := rfl
@[simp] theorem State.putMoved_nameMem : (s.putMoved a b).nameMem = s.nameMem := rfl
@[simp] theorem State.putMoved_outMem : (s.putMoved a b).outMem = s.outMem := rfl
@[simp] theorem State.putMoved_recMem : (s.putMoved a b).recMem = s.recMem := rfl
@[simp] theorem State.putMoved_moved : (s.putMoved a b).moved = Memory.write s.moved a b := rfl
@[simp] theorem State.putMoved_host : (s.putMoved a b).host = s.host := rfl
@[simp] theorem State.putMoved_reply : (s.putMoved a b).reply = s.reply := rfl
@[simp] theorem State.putMoved_epoch : (s.putMoved a b).epoch = s.epoch := rfl
@[simp] theorem State.putMoved_free : (s.putMoved a b).free = s.free := rfl
@[simp] theorem State.putMoved_fit (x : Nat) : (s.putMoved a b).fit x = s.fit x := rfl
end

/-! ### setHost -/
section
variable (s : State) (h : List HostAction)
@[simp] theorem State.setHost_params : (s.setHost h).params = s.params := rfl
@[simp] theorem State.setHost_status : (s.setHost h).status = s.status := rfl
@[simp] theorem State.setHost_aDlen : (s.setHost h).aDlen = s.aDlen := rfl
@[simp] theorem State.setHost_aAddr : (s.setHost h).aAddr = s.aAddr := rfl
@[simp] theorem State.setHost_inLen : (s.setHost h).inLen = s.inLen := rfl
@[simp] theorem State.setHost_nameLen : (s.setHost h).nameLen = s.nameLen := rfl
@[simp] theorem State.setHost_outLen : (s.setHost h).outLen = s.outLen := rfl
@[simp] theorem State.setHost_recCnt : (s.setHost h).recCnt = s.recCnt := rfl
@[simp] theorem State.setHost_warnCnt : (s.setHost h).warnCnt = s.warnCnt := rfl
@[simp] theorem State.setHost_acc : (s.setHost h).acc = s.acc := rfl
@[simp] theorem State.setHost_cur : (s.setHost h).cur = s.cur := rfl
@[simp] theorem State.setHost_len : (s.setHost h).len = s.len := rfl
@[simp] theorem State.setHost_flag : (s.setHost h).flag = s.flag := rfl
@[simp] theorem State.setHost_chk : (s.setHost h).chk = s.chk := rfl
@[simp] theorem State.setHost_hType : (s.setHost h).hType = s.hType := rfl
@[simp] theorem State.setHost_hName : (s.setHost h).hName = s.hName := rfl
@[simp] theorem State.setHost_hNlen : (s.setHost h).hNlen = s.hNlen := rfl
@[simp] theorem State.setHost_hDlen : (s.setHost h).hDlen = s.hDlen := rfl
@[simp] theorem State.setHost_hP1 : (s.setHost h).hP1 = s.hP1 := rfl
@[simp] theorem State.setHost_hP2 : (s.setHost h).hP2 = s.hP2 := rfl
@[simp] theorem State.setHost_inMem : (s.setHost h).inMem = s.inMem := rfl
@[simp] theorem State.setHost_nameMem : (s.setHost h).nameMem = s.nameMem := rfl
@[simp] theorem State.setHost_outMem : (s.setHost h).outMem = s.outMem := rfl
@[simp] theorem State.setHost_recMem : (s.setHost h).recMem = s.recMem := rfl
@[simp] theorem State.setHost_moved : (s.setHost h).moved = s.moved := rfl
@[simp] theorem State.setHost_host : (s.setHost h).host = h := rfl
@[simp] theorem State.setHost_reply : (s.setHost h).reply = s.reply := rfl
@[simp] theorem State.setHost_epoch : (s.setHost h).epoch = s.epoch := rfl
@[simp] theorem State.setHost_free : (s.setHost h).free = s.free := rfl
@[simp] theorem State.setHost_fit (x : Nat) : (s.setHost h).fit x = s.fit x := rfl
end

/-! ### setReply -/
section
variable (s : State) (r : HostReply)
@[simp] theorem State.setReply_params : (s.setReply r).params = s.params := rfl
@[simp] theorem State.setReply_status : (s.setReply r).status = s.status := rfl
@[simp] theorem State.setReply_aDlen : (s.setReply r).aDlen = s.aDlen := rfl
@[simp] theorem State.setReply_aAddr : (s.setReply r).aAddr = s.aAddr := rfl
@[simp] theorem State.setReply_inLen : (s.setReply r).inLen = s.inLen := rfl
@[simp] theorem State.setReply_nameLen : (s.setReply r).nameLen = s.nameLen := rfl
@[simp] theorem State.setReply_outLen : (s.setReply r).outLen = s.outLen := rfl
@[simp] theorem State.setReply_recCnt : (s.setReply r).recCnt = s.recCnt := rfl
@[simp] theorem State.setReply_warnCnt : (s.setReply r).warnCnt = s.warnCnt := rfl
@[simp] theorem State.setReply_acc : (s.setReply r).acc = s.acc := rfl
@[simp] theorem State.setReply_cur : (s.setReply r).cur = s.cur := rfl
@[simp] theorem State.setReply_len : (s.setReply r).len = s.len := rfl
@[simp] theorem State.setReply_flag : (s.setReply r).flag = s.flag := rfl
@[simp] theorem State.setReply_chk : (s.setReply r).chk = s.chk := rfl
@[simp] theorem State.setReply_hType : (s.setReply r).hType = s.hType := rfl
@[simp] theorem State.setReply_hName : (s.setReply r).hName = s.hName := rfl
@[simp] theorem State.setReply_hNlen : (s.setReply r).hNlen = s.hNlen := rfl
@[simp] theorem State.setReply_hDlen : (s.setReply r).hDlen = s.hDlen := rfl
@[simp] theorem State.setReply_hP1 : (s.setReply r).hP1 = s.hP1 := rfl
@[simp] theorem State.setReply_hP2 : (s.setReply r).hP2 = s.hP2 := rfl
@[simp] theorem State.setReply_inMem : (s.setReply r).inMem = s.inMem := rfl
@[simp] theorem State.setReply_nameMem : (s.setReply r).nameMem = s.nameMem := rfl
@[simp] theorem State.setReply_outMem : (s.setReply r).outMem = s.outMem := rfl
@[simp] theorem State.setReply_recMem : (s.setReply r).recMem = s.recMem := rfl
@[simp] theorem State.setReply_moved : (s.setReply r).moved = s.moved := rfl
@[simp] theorem State.setReply_host : (s.setReply r).host = s.host := rfl
@[simp] theorem State.setReply_reply : (s.setReply r).reply = some r := rfl
@[simp] theorem State.setReply_epoch : (s.setReply r).epoch = s.epoch := rfl
@[simp] theorem State.setReply_free : (s.setReply r).free = s.free := rfl
@[simp] theorem State.setReply_fit (x : Nat) : (s.setReply r).fit x = s.fit x := rfl
end

/-! ### bumpFree -/
section
variable (s : State)
@[simp] theorem State.bumpFree_params : (s.bumpFree).params = s.params := rfl
@[simp] theorem State.bumpFree_status : (s.bumpFree).status = s.status := rfl
@[simp] theorem State.bumpFree_aDlen : (s.bumpFree).aDlen = s.aDlen := rfl
@[simp] theorem State.bumpFree_aAddr : (s.bumpFree).aAddr = s.aAddr := rfl
@[simp] theorem State.bumpFree_inLen : (s.bumpFree).inLen = s.inLen := rfl
@[simp] theorem State.bumpFree_nameLen : (s.bumpFree).nameLen = s.nameLen := rfl
@[simp] theorem State.bumpFree_outLen : (s.bumpFree).outLen = s.outLen := rfl
@[simp] theorem State.bumpFree_recCnt : (s.bumpFree).recCnt = s.recCnt := rfl
@[simp] theorem State.bumpFree_warnCnt : (s.bumpFree).warnCnt = s.warnCnt := rfl
@[simp] theorem State.bumpFree_acc : (s.bumpFree).acc = s.acc := rfl
@[simp] theorem State.bumpFree_cur : (s.bumpFree).cur = s.cur := rfl
@[simp] theorem State.bumpFree_len : (s.bumpFree).len = s.len := rfl
@[simp] theorem State.bumpFree_flag : (s.bumpFree).flag = s.flag := rfl
@[simp] theorem State.bumpFree_chk : (s.bumpFree).chk = s.chk := rfl
@[simp] theorem State.bumpFree_hType : (s.bumpFree).hType = s.hType := rfl
@[simp] theorem State.bumpFree_hName : (s.bumpFree).hName = s.hName := rfl
@[simp] theorem State.bumpFree_hNlen : (s.bumpFree).hNlen = s.hNlen := rfl
@[simp] theorem State.bumpFree_hDlen : (s.bumpFree).hDlen = s.hDlen := rfl
@[simp] theorem State.bumpFree_hP1 : (s.bumpFree).hP1 = s.hP1 := rfl
@[simp] theorem State.bumpFree_hP2 : (s.bumpFree).hP2 = s.hP2 := rfl
@[simp] theorem State.bumpFree_inMem : (s.bumpFree).inMem = s.inMem := rfl
@[simp] theorem State.bumpFree_nameMem : (s.bumpFree).nameMem = s.nameMem := rfl
@[simp] theorem State.bumpFree_outMem : (s.bumpFree).outMem = s.outMem := rfl
@[simp] theorem State.bumpFree_recMem : (s.bumpFree).recMem = s.recMem := rfl
@[simp] theorem State.bumpFree_moved : (s.bumpFree).moved = s.moved := rfl
@[simp] theorem State.bumpFree_host : (s.bumpFree).host = s.host := rfl
@[simp] theorem State.bumpFree_reply : (s.bumpFree).reply = s.reply := rfl
@[simp] theorem State.bumpFree_epoch : (s.bumpFree).epoch = s.epoch := rfl
@[simp] theorem State.bumpFree_free : (s.bumpFree).free = s.free + 1 := rfl
@[simp] theorem State.bumpFree_fit (x : Nat) : (s.bumpFree).fit x = s.fit x := rfl
end

end Sys2Proof.Machine
end

