-- ==== Sys2Proof/Laws/Memory.lean ====
section
/-! SUPPORT. Sparse memory: read after write, and every write keeps the canonical form. -/

namespace Sys2Proof.Machine

variable {α : Type}

@[simp] theorem Memory.read?_nil (a : Nat) : Memory.read? ([] : List (Nat × α)) a = none := rfl

theorem Memory.read?_cons (k : Nat) (w : α) (m : List (Nat × α)) (a : Nat) :
    Memory.read? ((k, w) :: m) a = if k = a then some w else Memory.read? m a := rfl

@[simp] theorem Memory.read?_write_same (m : List (Nat × α)) (a : Nat) (v : α) :
    Memory.read? (Memory.write m a v) a = some v := by
  induction m with
  | nil => simp [Memory.write, Memory.read?_cons]
  | cons kw m ih =>
    obtain ⟨k, w⟩ := kw
    unfold Memory.write
    split
    · simp [Memory.read?_cons]
    · split
      · simp [Memory.read?_cons]
      · rename_i h1 h2
        simp [Memory.read?_cons, ih, Ne.symm h2]

theorem Memory.read?_write_other (m : List (Nat × α)) {a b : Nat} (v : α) (h : b ≠ a) :
    Memory.read? (Memory.write m a v) b = Memory.read? m b := by
  induction m with
  | nil => simp [Memory.write, Memory.read?_cons, h.symm]
  | cons kw m ih =>
    obtain ⟨k, w⟩ := kw
    unfold Memory.write
    split
    · simp [Memory.read?_cons, h.symm]
    · split
      · rename_i h1 h2
        subst h2
        simp [Memory.read?_cons, h.symm]
      · simp [Memory.read?_cons, ih]

theorem Memory.read?_write (m : List (Nat × α)) (a b : Nat) (v : α) :
    Memory.read? (Memory.write m a v) b = if b = a then some v else Memory.read? m b := by
  split
  · rename_i h; subst h; simp
  · exact Memory.read?_write_other m v ‹_›

theorem Memory.risingFrom_write {m : List (Nat × α)} {lo : Nat} (a : Nat) (v : α)
    (hm : Memory.risingFrom lo m = true) (ha : lo ≤ a) : Memory.risingFrom lo (Memory.write m a v) = true := by
  induction m generalizing lo with
  | nil => simp [Memory.write, Memory.risingFrom, ha]
  | cons kw m ih =>
    obtain ⟨k, w⟩ := kw
    simp only [Memory.risingFrom, Bool.and_eq_true, decide_eq_true_eq] at hm
    unfold Memory.write
    split
    · simp only [Memory.risingFrom, Bool.and_eq_true, decide_eq_true_eq]
      exact ⟨ha, by omega, hm.2⟩
    · split
      · rename_i h1 h2
        subst h2
        simp only [Memory.risingFrom, Bool.and_eq_true, decide_eq_true_eq]
        exact ⟨ha, hm.2⟩
      · simp only [Memory.risingFrom, Bool.and_eq_true, decide_eq_true_eq]
        exact ⟨hm.1, ih hm.2 (by omega)⟩

/-- A write keeps the canonical form. -/
theorem Memory.wf_write {m : List (Nat × α)} (a : Nat) (v : α) (hm : Memory.wf m = true) :
    Memory.wf (Memory.write m a v) = true :=
  Memory.risingFrom_write a v hm (Nat.zero_le a)

/-- Writing a list of cells keeps the canonical form. -/
theorem Memory.wf_writeCells {m : List (Nat × α)} (cells : List (Nat × α)) (hm : Memory.wf m = true) :
    Memory.wf (Memory.writeCells m cells) = true := by
  induction cells generalizing m with
  | nil => exact hm
  | cons c cells ih => exact ih (Memory.wf_write c.1 c.2 hm)

@[simp] theorem Memory.writeCells_nil (m : List (Nat × α)) : Memory.writeCells m [] = m := rfl

@[simp] theorem Memory.wf_nil : Memory.wf ([] : List (Nat × α)) = true := rfl

theorem Memory.read?_below {m : List (Nat × α)} {lo a : Nat} (hm : Memory.risingFrom lo m = true) (h : a < lo) :
    Memory.read? m a = none := by
  induction m generalizing lo with
  | nil => rfl
  | cons kw m ih =>
    obtain ⟨k, w⟩ := kw
    simp only [Memory.risingFrom, Bool.and_eq_true, decide_eq_true_eq] at hm
    rw [Memory.read?_cons, if_neg (by omega)]
    exact ih hm.2 (by omega)

/-- The cells of a canonical list, written over a memory, are what it holds at their offsets. -/
theorem Memory.read?_writeCells (m : List (Nat × α)) {cells : List (Nat × α)} {lo : Nat}
    (hc : Memory.risingFrom lo cells = true) (a : Nat) :
    Memory.read? (Memory.writeCells m cells) a = (Memory.read? cells a).or (Memory.read? m a) := by
  induction cells generalizing m lo with
  | nil => rfl
  | cons kv cells ih =>
    obtain ⟨k, v⟩ := kv
    simp only [Memory.risingFrom, Bool.and_eq_true, decide_eq_true_eq] at hc
    show Memory.read? (Memory.writeCells (Memory.write m k v) cells) a = _
    rw [ih (Memory.write m k v) hc.2, Memory.read?_write, Memory.read?_cons]
    by_cases h : k = a
    · subst h
      rw [Memory.read?_below hc.2 (by omega), if_pos rfl, if_pos rfl]
      rfl
    · rw [if_neg (Ne.symm h), if_neg h]

/-- Canonical memories that read the same everywhere are the same list. -/
theorem Memory.ext_of_wf {m n : List (Nat × α)} {lo : Nat} (hm : Memory.risingFrom lo m = true)
    (hn : Memory.risingFrom lo n = true) (h : ∀ a, Memory.read? m a = Memory.read? n a) : m = n := by
  induction m generalizing lo n with
  | nil =>
    cases n with
    | nil => rfl
    | cons kw n =>
      have := h kw.1
      simp [Memory.read?_cons kw.1 kw.2] at this
  | cons kw m ih =>
    obtain ⟨k, w⟩ := kw
    cases n with
    | nil => simpa [Memory.read?_cons] using h k
    | cons jx n =>
      obtain ⟨j, x⟩ := jx
      simp only [Memory.risingFrom, Bool.and_eq_true, decide_eq_true_eq] at hm hn
      have hkj : k = j := by
        rcases Nat.lt_trichotomy k j with hlt | heq | hgt
        · have h1 := h k
          rw [Memory.read?_cons, if_pos rfl, Memory.read?_cons, if_neg (by omega),
            Memory.read?_below hn.2 (by omega)] at h1
          cases h1
        · exact heq
        · have h1 := h j
          rw [Memory.read?_cons, if_neg (by omega), Memory.read?_cons, if_pos rfl,
            Memory.read?_below hm.2 (by omega)] at h1
          cases h1
      subst hkj
      have hwx : w = x := by simpa [Memory.read?_cons] using h k
      subst hwx
      congr 1
      refine ih hm.2 hn.2 fun a => ?_
      by_cases hak : k = a
      · subst hak
        rw [Memory.read?_below hm.2 (by omega), Memory.read?_below hn.2 (by omega)]
      · simpa [Memory.read?_cons, hak] using h a

end Sys2Proof.Machine
end

