-- ==== Sys2Proof/Laws/Command.lean ====
section
/-! SUPPORT. Command start, command end and fault entry (10_state.md R39, R40, 60_exceptions.md R186), field by
field: what each writes and what it leaves alone. -/

namespace Sys2Proof.Machine

@[simp] theorem State.fit_zero (s : State) : s.fit 0 = 0 := by simp [State.fit]

theorem State.fit_of_lt {s : State} {v : Nat} (h : v < 2 ^ s.params.argw) : s.fit v = v := Nat.mod_eq_of_lt h

theorem State.fit_lt (s : State) (v : Nat) : s.fit v < 2 ^ s.params.argw := Nat.mod_lt _ (Nat.two_pow_pos _)

/-! ### commandStart -/
section
variable (s : State)
@[simp] theorem State.commandStart_params : (s.commandStart).params = s.params := by
  simp [State.commandStart]
@[simp] theorem State.commandStart_status : (s.commandStart).status = s.status.started := by
  simp [State.commandStart]
@[simp] theorem State.commandStart_aDlen : (s.commandStart).aDlen = s.aDlen := by
  simp [State.commandStart]
@[simp] theorem State.commandStart_aAddr : (s.commandStart).aAddr = s.aAddr := by
  simp [State.commandStart]
@[simp] theorem State.commandStart_inLen : (s.commandStart).inLen = s.inLen := by
  simp [State.commandStart]
@[simp] theorem State.commandStart_nameLen : (s.commandStart).nameLen = s.nameLen := by
  simp [State.commandStart]
@[simp] theorem State.commandStart_outLen : (s.commandStart).outLen = 0 := by
  simp [State.commandStart]
@[simp] theorem State.commandStart_recCnt : (s.commandStart).recCnt = 0 := by
  simp [State.commandStart]
@[simp] theorem State.commandStart_warnCnt : (s.commandStart).warnCnt = 0 := by
  simp [State.commandStart]
@[simp] theorem State.commandStart_acc : (s.commandStart).acc = 0x00#8 := by
  simp [State.commandStart]
@[simp] theorem State.commandStart_cur : (s.commandStart).cur = 0 := by
  simp [State.commandStart]
@[simp] theorem State.commandStart_len : (s.commandStart).len = s.len := by
  simp [State.commandStart]
@[simp] theorem State.commandStart_flag : (s.commandStart).flag = s.flag := by
  simp [State.commandStart]
@[simp] theorem State.commandStart_chk : (s.commandStart).chk = s.chk := by
  simp [State.commandStart]
@[simp] theorem State.commandStart_hType : (s.commandStart).hType = s.hType := by
  simp [State.commandStart]
@[simp] theorem State.commandStart_hName : (s.commandStart).hName = s.hName := by
  simp [State.commandStart]
@[simp] theorem State.commandStart_hNlen : (s.commandStart).hNlen = s.hNlen := by
  simp [State.commandStart]
@[simp] theorem State.commandStart_hDlen : (s.commandStart).hDlen = s.hDlen := by
  simp [State.commandStart]
@[simp] theorem State.commandStart_hP1 : (s.commandStart).hP1 = s.hP1 := by
  simp [State.commandStart]
@[simp] theorem State.commandStart_hP2 : (s.commandStart).hP2 = s.hP2 := by
  simp [State.commandStart]
@[simp] theorem State.commandStart_inMem : (s.commandStart).inMem = s.inMem := by
  simp [State.commandStart]
@[simp] theorem State.commandStart_nameMem : (s.commandStart).nameMem = s.nameMem := by
  simp [State.commandStart]
@[simp] theorem State.commandStart_outMem : (s.commandStart).outMem = s.outMem := by
  simp [State.commandStart]
@[simp] theorem State.commandStart_recMem : (s.commandStart).recMem = s.recMem := by
  simp [State.commandStart]
@[simp] theorem State.commandStart_moved : (s.commandStart).moved = s.moved := by
  simp [State.commandStart]
@[simp] theorem State.commandStart_host : (s.commandStart).host = s.host := by
  simp [State.commandStart]
@[simp] theorem State.commandStart_reply : (s.commandStart).reply = s.reply := by
  simp [State.commandStart]
@[simp] theorem State.commandStart_epoch : (s.commandStart).epoch = s.epoch := by
  simp [State.commandStart]
@[simp] theorem State.commandStart_free : (s.commandStart).free = s.free := by
  simp [State.commandStart]
@[simp] theorem State.commandStart_fit (x : Nat) : (s.commandStart).fit x = s.fit x := by
  simp [State.commandStart]
end

/-! ### commandEnd -/
section
variable (s : State)
@[simp] theorem State.commandEnd_params : (s.commandEnd).params = s.params := by
  simp [State.commandEnd]
@[simp] theorem State.commandEnd_status : (s.commandEnd).status = s.status.ended := by
  simp [State.commandEnd]
@[simp] theorem State.commandEnd_aDlen : (s.commandEnd).aDlen = s.aDlen := by
  simp [State.commandEnd]
@[simp] theorem State.commandEnd_aAddr : (s.commandEnd).aAddr = s.aAddr := by
  simp [State.commandEnd]
@[simp] theorem State.commandEnd_inLen : (s.commandEnd).inLen = s.inLen := by
  simp [State.commandEnd]
@[simp] theorem State.commandEnd_nameLen : (s.commandEnd).nameLen = s.nameLen := by
  simp [State.commandEnd]
@[simp] theorem State.commandEnd_outLen : (s.commandEnd).outLen = s.outLen := by
  simp [State.commandEnd]
@[simp] theorem State.commandEnd_recCnt : (s.commandEnd).recCnt = s.recCnt := by
  simp [State.commandEnd]
@[simp] theorem State.commandEnd_warnCnt : (s.commandEnd).warnCnt = s.warnCnt := by
  simp [State.commandEnd]
@[simp] theorem State.commandEnd_acc : (s.commandEnd).acc = s.acc := by
  simp [State.commandEnd]
@[simp] theorem State.commandEnd_cur : (s.commandEnd).cur = s.cur := by
  simp [State.commandEnd]
@[simp] theorem State.commandEnd_len : (s.commandEnd).len = s.len := by
  simp [State.commandEnd]
@[simp] theorem State.commandEnd_flag : (s.commandEnd).flag = s.flag := by
  simp [State.commandEnd]
@[simp] theorem State.commandEnd_chk : (s.commandEnd).chk = s.chk := by
  simp [State.commandEnd]
@[simp] theorem State.commandEnd_hType : (s.commandEnd).hType = s.hType := by
  simp [State.commandEnd]
@[simp] theorem State.commandEnd_hName : (s.commandEnd).hName = s.hName := by
  simp [State.commandEnd]
@[simp] theorem State.commandEnd_hNlen : (s.commandEnd).hNlen = s.hNlen := by
  simp [State.commandEnd]
@[simp] theorem State.commandEnd_hDlen : (s.commandEnd).hDlen = s.hDlen := by
  simp [State.commandEnd]
@[simp] theorem State.commandEnd_hP1 : (s.commandEnd).hP1 = s.hP1 := by
  simp [State.commandEnd]
@[simp] theorem State.commandEnd_hP2 : (s.commandEnd).hP2 = s.hP2 := by
  simp [State.commandEnd]
@[simp] theorem State.commandEnd_inMem : (s.commandEnd).inMem = s.inMem := by
  simp [State.commandEnd]
@[simp] theorem State.commandEnd_nameMem : (s.commandEnd).nameMem = s.nameMem := by
  simp [State.commandEnd]
@[simp] theorem State.commandEnd_outMem : (s.commandEnd).outMem = s.outMem := by
  simp [State.commandEnd]
@[simp] theorem State.commandEnd_recMem : (s.commandEnd).recMem = s.recMem := by
  simp [State.commandEnd]
@[simp] theorem State.commandEnd_moved : (s.commandEnd).moved = s.moved := by
  simp [State.commandEnd]
@[simp] theorem State.commandEnd_host : (s.commandEnd).host = s.host := by
  simp [State.commandEnd]
@[simp] theorem State.commandEnd_reply : (s.commandEnd).reply = s.reply := by
  simp [State.commandEnd]
@[simp] theorem State.commandEnd_epoch : (s.commandEnd).epoch = s.epoch := by
  simp [State.commandEnd]
@[simp] theorem State.commandEnd_free : (s.commandEnd).free = s.free := by
  simp [State.commandEnd]
@[simp] theorem State.commandEnd_fit (x : Nat) : (s.commandEnd).fit x = s.fit x := by
  simp [State.commandEnd]
end

/-! ### raise -/
section
variable (s : State) (f : TapFault)
@[simp] theorem State.raise_params : (s.raise f).params = s.params := by
  simp [State.raise]
@[simp] theorem State.raise_status : (s.raise f).status = s.status.raised f := by
  simp [State.raise]
@[simp] theorem State.raise_aDlen : (s.raise f).aDlen = s.aDlen := by
  simp [State.raise]
@[simp] theorem State.raise_aAddr : (s.raise f).aAddr = s.aAddr := by
  simp [State.raise]
@[simp] theorem State.raise_inLen : (s.raise f).inLen = s.inLen := by
  simp [State.raise]
@[simp] theorem State.raise_nameLen : (s.raise f).nameLen = s.nameLen := by
  simp [State.raise]
@[simp] theorem State.raise_outLen : (s.raise f).outLen = 0 := by
  simp [State.raise]
@[simp] theorem State.raise_recCnt : (s.raise f).recCnt = 0 := by
  simp [State.raise]
@[simp] theorem State.raise_warnCnt : (s.raise f).warnCnt = 0 := by
  simp [State.raise]
@[simp] theorem State.raise_acc : (s.raise f).acc = 0x00#8 := by
  simp [State.raise]
@[simp] theorem State.raise_cur : (s.raise f).cur = s.cur := by
  simp [State.raise]
@[simp] theorem State.raise_len : (s.raise f).len = s.len := by
  simp [State.raise]
@[simp] theorem State.raise_flag : (s.raise f).flag = s.flag := by
  simp [State.raise]
@[simp] theorem State.raise_chk : (s.raise f).chk = s.chk := by
  simp [State.raise]
@[simp] theorem State.raise_hType : (s.raise f).hType = s.hType := by
  simp [State.raise]
@[simp] theorem State.raise_hName : (s.raise f).hName = s.hName := by
  simp [State.raise]
@[simp] theorem State.raise_hNlen : (s.raise f).hNlen = s.hNlen := by
  simp [State.raise]
@[simp] theorem State.raise_hDlen : (s.raise f).hDlen = s.hDlen := by
  simp [State.raise]
@[simp] theorem State.raise_hP1 : (s.raise f).hP1 = s.hP1 := by
  simp [State.raise]
@[simp] theorem State.raise_hP2 : (s.raise f).hP2 = s.hP2 := by
  simp [State.raise]
@[simp] theorem State.raise_inMem : (s.raise f).inMem = s.inMem := by
  simp [State.raise]
@[simp] theorem State.raise_nameMem : (s.raise f).nameMem = s.nameMem := by
  simp [State.raise]
@[simp] theorem State.raise_outMem : (s.raise f).outMem = s.outMem := by
  simp [State.raise]
@[simp] theorem State.raise_recMem : (s.raise f).recMem = s.recMem := by
  simp [State.raise]
@[simp] theorem State.raise_moved : (s.raise f).moved = s.moved := by
  simp [State.raise]
@[simp] theorem State.raise_host : (s.raise f).host = s.host := by
  simp [State.raise]
@[simp] theorem State.raise_reply : (s.raise f).reply = s.reply := by
  simp [State.raise]
@[simp] theorem State.raise_epoch : (s.raise f).epoch = s.epoch := by
  simp [State.raise]
@[simp] theorem State.raise_free : (s.raise f).free = s.free := by
  simp [State.raise]
@[simp] theorem State.raise_fit (x : Nat) : (s.raise f).fit x = s.fit x := by
  simp [State.raise]
end

/-! ### The flag computations -/
section
variable (st : Status) (f : TapFault)
@[simp] theorem Status.started_busy : st.started.busy = true := rfl
@[simp] theorem Status.started_done : st.started.done = false := rfl
@[simp] theorem Status.started_warn : st.started.warn = false := rfl
@[simp] theorem Status.started_err : st.started.err = 0#3 := rfl
@[simp] theorem Status.ended_busy : st.ended.busy = false := rfl
@[simp] theorem Status.ended_done : st.ended.done = true := rfl
@[simp] theorem Status.ended_warn : st.ended.warn = st.warn := rfl
@[simp] theorem Status.ended_err : st.ended.err = st.err := rfl
@[simp] theorem Status.raised_busy : (st.raised f).busy = false := rfl
@[simp] theorem Status.raised_done : (st.raised f).done = true := rfl
@[simp] theorem Status.raised_warn : (st.raised f).warn = false := rfl
@[simp] theorem Status.raised_err : (st.raised f).err = f.code := rfl
@[simp] theorem Status.warned_busy : st.warned.busy = st.busy := rfl
@[simp] theorem Status.warned_done : st.warned.done = st.done := rfl
@[simp] theorem Status.warned_warn : st.warned.warn = true := rfl
@[simp] theorem Status.warned_err : st.warned.err = st.err := rfl
end

theorem TapFault.code_ne_zero (f : TapFault) : f.code ≠ 0#3 := by cases f <;> decide

theorem TapFault.code_le_five (f : TapFault) : f.code.toNat ≤ 5 := by cases f <;> decide

end Sys2Proof.Machine
end

