-- ==== Sys2Proof/Laws/Read.lean ====
section
/-! SUPPORT. Reading the spaces: what a byte read depends on, how a read of several bytes splits, and what a
sequence of writes leaves to read. -/

namespace Sys2Proof.Machine

/-- A byte read depends on the space's cells and on the epoch only. -/
theorem State.byteAt_congr {s t : State} {sp : Space} (hc : t.cells sp = s.cells sp) (he : t.epoch = s.epoch)
    (a : Nat) : t.byteAt sp a = s.byteAt sp a := by
  unfold State.byteAt
  rw [hc, he]

theorem State.memRead_congr {s t : State} {sp : Space} (hc : t.cells sp = s.cells sp) (he : t.epoch = s.epoch)
    (a n : Nat) : t.memRead sp a n = s.memRead sp a n := by
  unfold State.memRead
  exact List.map_congr_left fun x _ => State.byteAt_congr hc he x

@[simp] theorem State.memRead_length (s : State) (sp : Space) (a n : Nat) : (s.memRead sp a n).length = n := by
  simp [State.memRead]

@[simp] theorem State.memRead_zero (s : State) (sp : Space) (a : Nat) : s.memRead sp a 0 = [] := rfl

theorem State.memRead_succ (s : State) (sp : Space) (a n : Nat) :
    s.memRead sp a (n + 1) = s.byteAt sp a :: s.memRead sp (a + 1) n := rfl

theorem State.memRead_add (s : State) (sp : Space) (a m n : Nat) :
    s.memRead sp a (m + n) = s.memRead sp a m ++ s.memRead sp (a + m) n := by
  induction m generalizing a with
  | zero => simp
  | succ m ih =>
    rw [Nat.succ_add, State.memRead_succ, State.memRead_succ, ih, Nat.succ_add_eq_add_succ]
    rfl

theorem State.memRead_getElem (s : State) (sp : Space) {a n i : Nat} (h : i < n) :
    (s.memRead sp a n)[i]'(by simpa using h) = s.byteAt sp (a + i) := by
  simp [State.memRead]

theorem State.memRead_getElem? (s : State) (sp : Space) {a n i : Nat} (h : i < n) :
    (s.memRead sp a n)[i]? = some (s.byteAt sp (a + i)) := by
  rw [List.getElem?_eq_getElem (by simpa using h), State.memRead_getElem s sp h]

@[simp] theorem State.inBytes_length (s : State) : s.inBytes.length = s.inLen := by simp [State.inBytes]
@[simp] theorem State.nameBytes_length (s : State) : s.nameBytes.length = s.nameLen := by simp [State.nameBytes]
@[simp] theorem State.outBytes_length (s : State) : s.outBytes.length = s.outLen := by simp [State.outBytes]

/-- Bytes written one after another from an offset on. -/
def Memory.writeSeq {α : Type} (m : List (Nat × α)) (a : Nat) : List α → List (Nat × α)
  | [] => m
  | b :: bs => Memory.writeSeq (Memory.write m a b) (a + 1) bs

theorem Memory.writeSeq_append {α : Type} (m : List (Nat × α)) (a : Nat) (xs ys : List α) :
    Memory.writeSeq m a (xs ++ ys) = Memory.writeSeq (Memory.writeSeq m a xs) (a + xs.length) ys := by
  induction xs generalizing m a with
  | nil => rfl
  | cons x xs ih =>
    simp only [List.cons_append, Memory.writeSeq, ih, List.length_cons]
    rw [Nat.add_right_comm, Nat.add_assoc]

theorem Memory.wf_writeSeq {α : Type} {m : List (Nat × α)} (a : Nat) (bs : List α) (h : Memory.wf m = true) :
    Memory.wf (Memory.writeSeq m a bs) = true := by
  induction bs generalizing m a with
  | nil => exact h
  | cons b bs ih => exact ih (a + 1) (Memory.wf_write a b h)

theorem Memory.read?_writeSeq_outside {α : Type} (m : List (Nat × α)) {a : Nat} (bs : List α) {x : Nat}
    (h : x < a ∨ a + bs.length ≤ x) : Memory.read? (Memory.writeSeq m a bs) x = Memory.read? m x := by
  induction bs generalizing m a with
  | nil => rfl
  | cons b bs ih =>
    simp only [List.length_cons] at h
    rw [Memory.writeSeq, ih _ (by omega), Memory.read?_write_other _ _ (by omega)]

theorem Memory.read?_writeSeq {α : Type} (m : List (Nat × α)) (a : Nat) (bs : List α) {i : Nat} (h : i < bs.length) :
    Memory.read? (Memory.writeSeq m a bs) (a + i) = some bs[i] := by
  induction bs generalizing m a i with
  | nil => simp at h
  | cons b bs ih =>
    rw [Memory.writeSeq]
    cases i with
    | zero => rw [Memory.read?_writeSeq_outside _ _ (by omega)]; simp
    | succ i =>
      have := ih (Memory.write m a b) (a + 1) (Nat.lt_of_succ_lt_succ h)
      rwa [Nat.add_right_comm, Nat.add_assoc] at this

/-- What a sequence of writes leaves to read back. -/
theorem State.memRead_writeSeq {s : State} {sp : Space} {m : List Host.Cell} {a : Nat} {bs : List Byte}
    (h : s.cells sp = Memory.writeSeq m a bs) : s.memRead sp a bs.length = bs := by
  apply List.ext_getElem (by simp)
  intro i h1 h2
  rw [State.memRead_getElem s sp h2, State.byteAt, h, Memory.read?_writeSeq m a bs h2]
  rfl

end Sys2Proof.Machine
end

