-- ==== Sys2Proof/Laws/Emit.lean ====
section
/-! SUPPORT. The accumulator and the emit routine: the laws of `xor_fold` (40_checksum.md R100 to R104), and
everything `emit_block` (42_data_encode.md R131) does, in one equation. -/

namespace Sys2Proof.Machine

/-! ## `xor_fold` -/

theorem xorFold_foldl (bs : List Byte) (a : Byte) :
    bs.foldl (fun x y => x ^^^ y) a = a ^^^ xorFold bs := by
  induction bs generalizing a with
  | nil => simp [xorFold]
  | cons b bs ih =>
    simp only [xorFold, List.foldl_cons] at ih ⊢
    rw [ih, ih (0x00#8 ^^^ b), BitVec.zero_xor, BitVec.xor_assoc]

@[simp] theorem xorFold_nil : xorFold [] = 0x00#8 := rfl

theorem xorFold_cons (b : Byte) (bs : List Byte) : xorFold (b :: bs) = b ^^^ xorFold bs := by
  rw [xorFold, List.foldl_cons, xorFold_foldl, BitVec.zero_xor]

/-! ## `absorb` -/

theorem State.absorbSeq_eq (s : State) (bs : List Byte) :
    s.absorbSeq bs = s.setAcc (s.acc ^^^ xorFold bs) := by
  induction bs generalizing s with
  | nil => simp [State.absorbSeq, State.setAcc]
  | cons b bs ih =>
    rw [State.absorbSeq, List.foldl_cons, ← State.absorbSeq, ih, xorFold_cons, ← BitVec.xor_assoc]
    rfl

/-! ## `emit` -/

theorem State.emit_eq {s : State} (b : Byte) (h : s.outLen + 1 < 2 ^ s.params.argw) :
    s.emit b = { s with outMem := Memory.write s.outMem s.outLen b, outLen := s.outLen + 1 } := by
  simp only [State.emit, State.setOutLen, State.putOut]
  congr 1
  exact Nat.mod_eq_of_lt h

theorem State.emitAbsorb_eq {s : State} (b : Byte) (h : s.outLen + 1 < 2 ^ s.params.argw) :
    s.emitAbsorb b =
      { s with outMem := Memory.write s.outMem s.outLen b, outLen := s.outLen + 1, acc := s.acc ^^^ b } := by
  rw [State.emitAbsorb, State.emit_eq b h]
  rfl

theorem State.emitAbsorbSeq_eq {s : State} (bs : List Byte) (h : s.outLen + bs.length < 2 ^ s.params.argw) :
    bs.foldl State.emitAbsorb s =
      { s with
        outMem := Memory.writeSeq s.outMem s.outLen bs
        outLen := s.outLen + bs.length
        acc := s.acc ^^^ xorFold bs } := by
  induction bs generalizing s with
  | nil => simp [Memory.writeSeq]
  | cons b bs ih =>
    simp only [List.length_cons] at h
    rw [List.foldl_cons, State.emitAbsorb_eq b (by omega), ih (by simp only; omega)]
    simp only [Memory.writeSeq, List.length_cons, xorFold_cons, BitVec.xor_assoc]
    congr 1
    omega

@[simp] theorem blk_length (f : Byte) (p : List Byte) : (blk f p).length = p.length + 4 := by
  simp [blk, le16]

/-- `emit_block` (R131): it "appends exactly len(p) + 4 bytes to OUT, equal to BLK(f, p)", and `ACC`, `CHK` keep the
checksum; `LEN` and `FLAG` hold the block's; nothing else changes. -/
theorem State.emitBlock_eq {s : State} (f : Byte) (p : List Byte)
    (h : s.outLen + (p.length + 4) < 2 ^ s.params.argw) :
    s.emitBlock f p =
      { s with
        len := BitVec.ofNat 16 (p.length + 2)
        flag := f
        chk := xorFold (f :: p)
        acc := xorFold (f :: p)
        outMem := Memory.writeSeq s.outMem s.outLen (blk f p)
        outLen := s.outLen + (p.length + 4) } := by
  have hlen : ∀ x y : Byte, ((s.setLen (BitVec.ofNat 16 (p.length + 2))).setFlag f |>.emit x |>.emit y) =
      { s with
        len := BitVec.ofNat 16 (p.length + 2)
        flag := f
        outMem := Memory.writeSeq s.outMem s.outLen [x, y]
        outLen := s.outLen + 2 } := by
    intro x y
    rw [State.emit_eq (s := (s.setLen _).setFlag f) x (by simp; omega), State.emit_eq y (by simp; omega)]
    rfl
  unfold State.emitBlock
  simp only [hlen]
  rw [State.emitAbsorb_eq (s := State.setAcc _ _) f (by simp; omega),
    State.emitAbsorbSeq_eq p (by simp; omega), State.emit_eq _ (by simp; omega)]
  simp only [State.setLen, State.setFlag, State.setAcc, State.setChk, blk, le16, List.cons_append,
    List.nil_append, Memory.writeSeq, Memory.writeSeq_append, BitVec.zero_xor, xorFold_cons, Nat.add_assoc,
    Nat.reduceAdd]
  congr 1
  omega

end Sys2Proof.Machine
end

