-- ==== Sys2Proof/Laws/Encoding.lean ====
section
/-! SUPPORT. Byte order: a `u16` laid out by `le16` reads back by `u16le` (20_memory.md R55), and both as numbers. -/

namespace Sys2Proof

theorem le16_eq (v : U16) : le16 v = [v.extractLsb' 0 8, v.extractLsb' 8 8] := rfl

@[simp] theorem le16_length (v : U16) : (le16 v).length = 2 := rfl

theorem u16le_toNat (b0 b1 : Byte) : (u16le b0 b1).toNat = b0.toNat + 256 * b1.toNat := by
  unfold u16le
  rw [BitVec.toNat_append, ← Nat.shiftLeft_add_eq_or_of_lt b0.isLt, Nat.shiftLeft_eq]
  omega

theorem le16_lo_toNat (v : U16) : (v.extractLsb' 0 8).toNat = v.toNat % 256 := by
  simp

theorem le16_hi_toNat (v : U16) : (v.extractLsb' 8 8).toNat = v.toNat / 256 := by
  have := v.isLt
  simp [Nat.shiftRight_eq_div_pow]
  omega

/-- `u16le` inverts `le16`. -/
theorem u16le_le16 (v : U16) : u16le (v.extractLsb' 0 8) (v.extractLsb' 8 8) = v := by
  apply BitVec.eq_of_toNat_eq
  rw [u16le_toNat, le16_lo_toNat, le16_hi_toNat]
  omega

/-- `le16` inverts `u16le`. -/
theorem le16_u16le (b0 b1 : Byte) : le16 (u16le b0 b1) = [b0, b1] := by
  have h0 : (u16le b0 b1).extractLsb' 0 8 = b0 := by
    apply BitVec.eq_of_toNat_eq
    rw [le16_lo_toNat, u16le_toNat]
    have := b0.isLt
    omega
  have h1 : (u16le b0 b1).extractLsb' 8 8 = b1 := by
    apply BitVec.eq_of_toNat_eq
    rw [le16_hi_toNat, u16le_toNat]
    have := b0.isLt
    omega
  rw [le16_eq, h0, h1]

end Sys2Proof
end

