-- ==== Sys2Proof/Laws/PerInstr.lean ====
section
/-! SUPPORT. Statements made per instruction: one family, the shape of an encoding, with one lemma per constructor. -/

namespace Sys2Proof.Laws

/-- A command is one byte whose value is below 8; a block's head is three bytes, and its length field, read back, is below
2 exactly for the two illegal lengths. -/
def EncodingShape.Statement (i : Instr) : Prop :=
  i.wellFormed = true →
    match i.format with
    | .cmd3 => ∃ b, encode i = [b] ∧ b.toNat < 8
    | .framedBlock => ∃ b0 b1 f, encode i = [b0, b1, f] ∧
        ((u16le b0 b1).toNat < 2 ↔ (∃ g, i = .blkIllegalLen0 g) ∨ ∃ g, i = .blkIllegalLen1 g)

theorem EncodingShape.csum : EncodingShape.Statement .csum := fun _ => ⟨_, rfl, by decide⟩
theorem EncodingShape.encHdr : EncodingShape.Statement .encHdr := fun _ => ⟨_, rfl, by decide⟩
theorem EncodingShape.encData : EncodingShape.Statement .encData := fun _ => ⟨_, rfl, by decide⟩
theorem EncodingShape.encTap : EncodingShape.Statement .encTap := fun _ => ⟨_, rfl, by decide⟩
theorem EncodingShape.dec : EncodingShape.Statement .dec := fun _ => ⟨_, rfl, by decide⟩
theorem EncodingShape.reserved0 : EncodingShape.Statement .reserved0 := fun _ => ⟨_, rfl, by decide⟩
theorem EncodingShape.reserved6 : EncodingShape.Statement .reserved6 := fun _ => ⟨_, rfl, by decide⟩
theorem EncodingShape.reserved7 : EncodingShape.Statement .reserved7 := fun _ => ⟨_, rfl, by decide⟩

theorem EncodingShape.blkIllegalLen0 (flag : Byte) : EncodingShape.Statement (.blkIllegalLen0 flag) := fun _ =>
  ⟨_, _, _, rfl, by simpa using (by decide : (u16le ((0x0000#16).extractLsb' 0 8) ((0x0000#16).extractLsb' 8 8)).toNat < 2)⟩

theorem EncodingShape.blkIllegalLen1 (flag : Byte) : EncodingShape.Statement (.blkIllegalLen1 flag) := fun _ =>
  ⟨_, _, _, rfl, by simpa using (by decide : (u16le ((0x0001#16).extractLsb' 0 8) ((0x0001#16).extractLsb' 8 8)).toNat < 2)⟩

theorem EncodingShape.blkHdr : EncodingShape.Statement .blkHdr := fun _ =>
  ⟨_, _, _, rfl, by simpa using (by decide : 1 < (u16le ((0x0013#16).extractLsb' 0 8) ((0x0013#16).extractLsb' 8 8)).toNat)⟩

theorem EncodingShape.blkData (len : U16) : EncodingShape.Statement (.blkData len) := fun h =>
  ⟨_, _, _, rfl, by
    rw [u16le_le16]
    simp only [Instr.wellFormed, decide_eq_true_eq] at h
    have h2 : 1 < len.toNat := h
    simpa using h2⟩

theorem EncodingShape.blkOther (len : U16) (flag : Byte) : EncodingShape.Statement (.blkOther len flag) := fun h =>
  ⟨_, _, _, rfl, by
    rw [u16le_le16]
    simp only [Instr.wellFormed, Bool.and_eq_true, decide_eq_true_eq] at h
    have h2 : 1 < len.toNat := h.1.1
    simpa using h2⟩

end Sys2Proof.Laws
end

