-- ==== Sys2Proof/Laws/Scan.lean ====
section
/-! SUPPORT. The decoder's shared operations: what a block can do (one inversion for the body, one for a pass, one for
the loop), and that fetching a block and running its instruction is one pass of the loop of 44_decode.md R150. -/

namespace Sys2Proof.Machine

/-- What every operation of the decoder leaves alone: parameters, operand registers, IN, NAME, OUT, what moved, and the
host's side. -/
structure State.SameFixed (s t : State) : Prop where
  params  : t.params = s.params
  aDlen   : t.aDlen = s.aDlen
  aAddr   : t.aAddr = s.aAddr
  inLen   : t.inLen = s.inLen
  nameLen : t.nameLen = s.nameLen
  inMem   : t.inMem = s.inMem
  nameMem : t.nameMem = s.nameMem
  outMem  : t.outMem = s.outMem
  moved   : t.moved = s.moved
  host    : t.host = s.host
  reply   : t.reply = s.reply
  epoch   : t.epoch = s.epoch
  free    : t.free = s.free

theorem State.SameFixed.refl (s : State) : State.SameFixed s s := by constructor <;> rfl

theorem State.SameFixed.trans {s t u : State} (h : State.SameFixed s t) (k : State.SameFixed t u) :
    State.SameFixed s u := by
  obtain ⟨a1, a2, a3, a4, a5, a6, a7, a8, a9, a10, a11, a12, a13⟩ := h
  obtain ⟨b1, b2, b3, b4, b5, b6, b7, b8, b9, b10, b11, b12, b13⟩ := k
  exact ⟨b1.trans a1, b2.trans a2, b3.trans a3, b4.trans a4, b5.trans a5, b6.trans a6, b7.trans a7, b8.trans a8,
    b9.trans a9, b10.trans a10, b11.trans a11, b12.trans a12, b13.trans a13⟩

theorem State.SameFixed.byteAt {s t : State} (h : State.SameFixed s t) (sp : Space) (a : Nat) :
    t.byteAt sp a = s.byteAt sp a := by
  apply State.byteAt_congr _ h.epoch
  cases sp <;> simp [State.cells, h.inMem, h.nameMem, h.outMem]

theorem State.SameFixed.memRead {s t : State} (h : State.SameFixed s t) (sp : Space) (a n : Nat) :
    t.memRead sp a n = s.memRead sp a n := by
  unfold State.memRead
  exact List.map_congr_left fun x _ => h.byteAt sp x

theorem State.SameFixed.commandStart (s : State) : State.SameFixed s s.commandStart := by constructor <;> simp
theorem State.SameFixed.commandEnd (s : State) : State.SameFixed s s.commandEnd := by constructor <;> simp
theorem State.SameFixed.raise (s : State) (f : TapFault) : State.SameFixed s (s.raise f) := by constructor <;> simp

/-! ## A block whose head is loaded -/

/-- The state after a block's bytes have been read: `LEN`, `FLAG`, `CHK` hold its fields and the cursor is past it. -/
def State.readBlock (s : State) (len : U16) (flag : Byte) : State :=
  { s with
    len := len
    flag := flag
    chk := s.byteAt .inp (s.cur + 1 + len.toNat)
    cur := s.cur + 2 + len.toNat }

theorem State.SameFixed.readBlock (s : State) (len : U16) (flag : Byte) :
    State.SameFixed s (s.readBlock len flag) := by constructor <;> rfl

/-- The cursor placed: no width is cut where it stays within `IN_LEN`. -/
def State.atCur (s : State) (c : Nat) : State := { s with cur := c }

section
variable (s : State) (c : Nat)
@[simp] theorem State.atCur_cur : (s.atCur c).cur = c := rfl
@[simp] theorem State.atCur_inLen : (s.atCur c).inLen = s.inLen := rfl
@[simp] theorem State.atCur_params : (s.atCur c).params = s.params := rfl
@[simp] theorem State.atCur_len : (s.atCur c).len = s.len := rfl
@[simp] theorem State.atCur_flag : (s.atCur c).flag = s.flag := rfl
@[simp] theorem State.atCur_status : (s.atCur c).status = s.status := rfl
@[simp] theorem State.atCur_byteAt (sp : Space) (a : Nat) : (s.atCur c).byteAt sp a = s.byteAt sp a := by
  cases sp <;> rfl
@[simp] theorem State.atCur_memRead (sp : Space) (a n : Nat) : (s.atCur c).memRead sp a n = s.memRead sp a n := by
  cases sp <;> rfl
@[simp] theorem State.setLen_byteAt (l : U16) (sp : Space) (a : Nat) : (s.setLen l).byteAt sp a = s.byteAt sp a := by
  cases sp <;> rfl
@[simp] theorem State.setFlag_byteAt (f : Byte) (sp : Space) (a : Nat) : (s.setFlag f).byteAt sp a = s.byteAt sp a := by
  cases sp <;> rfl
@[simp] theorem State.setLen_memRead (l : U16) (sp : Space) (a n : Nat) :
    (s.setLen l).memRead sp a n = s.memRead sp a n := by
  cases sp <;> rfl
@[simp] theorem State.setFlag_memRead (f : Byte) (sp : Space) (a n : Nat) :
    (s.setFlag f).memRead sp a n = s.memRead sp a n := by
  cases sp <;> rfl
end

theorem State.advance_eq {s : State} {k : Nat} (h : s.cur + k < 2 ^ s.params.argw) :
    s.advance k = s.atCur (s.cur + k) := by
  simp only [State.advance, State.setCur, State.atCur]
  rw [State.fit_of_lt h]

theorem State.SameFixed.advance (s : State) (k : Nat) : State.SameFixed s (s.advance k) := by constructor <;> rfl

/-- A body of which every byte is there: the payload and the checksum byte are read, then the block is recorded
(44_decode.md R156, R157). -/
theorem State.blockBody_whole {s : State} {parse : Bool} (hw : s.inLen < 2 ^ s.params.argw)
    (h2 : 2 ≤ s.len.toNat) (hin : s.cur + (s.len.toNat - 2) + 1 ≤ s.inLen) :
    s.blockBody parse =
      ((s.setChk (s.byteAt .inp (s.cur + (s.len.toNat - 2)))).atCur (s.cur + (s.len.toNat - 2) + 1)).recordBlock parse
        s.cur (s.memRead .inp s.cur (s.len.toNat - 2)) := by
  unfold State.blockBody
  rw [if_neg (by omega)]
  simp only
  rw [if_neg (by simp only [State.remaining]; omega)]
  simp only [State.advance_eq (s := s) (k := s.len.toNat - 2) (by omega)]
  rw [if_neg (by simp only [State.remaining, State.atCur_inLen, State.atCur_cur]; omega)]
  rw [State.advance_eq (by simp; omega)]
  simp [State.atCur, State.setChk, State.byteAt, State.cells]

/-- A whole block at the cursor: all its bytes are read, then it is recorded (44_decode.md R154 to R157). -/
theorem State.runBlock_whole {s : State} {len : U16} {flag : Byte} {parse : Bool}
    (hw : s.inLen < 2 ^ s.params.argw) (h2 : 2 ≤ len.toNat) (hin : s.cur + 2 + len.toNat ≤ s.inLen) :
    s.runBlock len flag parse =
      (s.readBlock len flag).recordBlock parse (s.cur + 3) (s.memRead .inp (s.cur + 3) (len.toNat - 2)) := by
  unfold State.runBlock
  rw [if_neg (by simp only [State.remaining]; omega)]
  simp only [State.advance_eq (s := s.setLen len) (k := 2) (by simp; omega)]
  rw [if_neg (by simp [State.remaining]; omega), State.advance_eq (by simp; omega),
    State.blockBody_whole (by simpa using hw) (by simpa using h2) (by simp; omega)]
  have e1 : s.cur + 2 + 1 + (len.toNat - 2) = s.cur + 1 + len.toNat := by omega
  have e2 : s.cur + 1 + len.toNat + 1 = s.cur + 2 + len.toNat := by omega
  simp only [State.atCur_len, State.setFlag_len, State.setLen_len, State.atCur_cur, State.setFlag_cur,
    State.setLen_cur, e1, e2, Nat.add_assoc s.cur 2 1, Nat.reduceAdd, State.atCur_byteAt, State.atCur_memRead, State.setFlag_byteAt, State.setLen_byteAt,
    State.setFlag_memRead, State.setLen_memRead]
  simp only [State.readBlock, State.atCur, State.setChk, State.setFlag, State.setLen]

/-- A head cut short (44_decode.md R153, R154): StreamTruncated, with what was read of the head. -/
theorem State.runBlock_headShort {s : State} {len : U16} {flag : Byte} {parse : Bool}
    (hw : s.inLen < 2 ^ s.params.argw) (h : s.inLen < s.cur + 3) :
    ∃ l c, s.runBlock len flag parse = .next (((s.setLen l).atCur c).raise .streamTruncated) ∧ s.cur ≤ c ∧
      (s.cur ≤ s.inLen → c ≤ s.inLen) := by
  unfold State.runBlock
  by_cases h2 : s.remaining < 2
  · refine ⟨s.len, s.cur, ?_, by omega, id⟩
    rw [if_pos h2]
    rfl
  · simp only [State.remaining] at h2
    rw [if_neg (by simpa [State.remaining] using h2)]
    simp only [State.advance_eq (s := s.setLen len) (k := 2) (by simp; omega)]
    rw [if_pos (by simp [State.remaining]; omega)]
    exact ⟨len, s.cur + 2, rfl, by omega, by omega⟩

/-- A length field below 2 with the whole head there (44_decode.md R155): MalformedBlock. -/
theorem State.runBlock_lengthShort {s : State} {len : U16} {flag : Byte} {parse : Bool}
    (hw : s.inLen < 2 ^ s.params.argw) (h : s.cur + 3 ≤ s.inLen) (h2 : len.toNat < 2) :
    s.runBlock len flag parse =
      .next ((((s.setLen len).setFlag flag).atCur (s.cur + 3)).raise .malformedBlock) := by
  unfold State.runBlock
  rw [if_neg (by simp only [State.remaining]; omega)]
  simp only [State.advance_eq (s := s.setLen len) (k := 2) (by simp; omega)]
  rw [if_neg (by simp [State.remaining]; omega), State.advance_eq (by simp; omega)]
  unfold State.blockBody
  rw [if_pos (by simpa using h2)]
  rfl

/-- A payload or checksum byte cut short (44_decode.md R156, R157): StreamTruncated. -/
theorem State.runBlock_bodyShort {s : State} {len : U16} {flag : Byte} {parse : Bool}
    (hw : s.inLen < 2 ^ s.params.argw) (h3 : s.cur + 3 ≤ s.inLen) (h2 : 2 ≤ len.toNat)
    (h : s.inLen < s.cur + 2 + len.toNat) :
    ∃ c, s.runBlock len flag parse =
        .next ((((s.setLen len).setFlag flag).atCur c).raise .streamTruncated) ∧
      s.cur ≤ c ∧ c ≤ s.inLen := by
  unfold State.runBlock
  rw [if_neg (by simp only [State.remaining]; omega)]
  simp only [State.advance_eq (s := s.setLen len) (k := 2) (by simp; omega)]
  rw [if_neg (by simp [State.remaining]; omega), State.advance_eq (by simp; omega)]
  unfold State.blockBody
  rw [if_neg (by simp; omega)]
  by_cases hp : s.inLen < s.cur + 3 + (len.toNat - 2)
  · simp only
    rw [if_pos (by simp [State.remaining]; omega)]
    exact ⟨s.cur + 3, rfl, by omega, by omega⟩
  · simp only
    rw [if_neg (by simp [State.remaining]; omega), State.advance_eq (by simp; omega)]
    rw [if_pos (by simp [State.remaining]; omega)]
    exact ⟨s.cur + 3 + (len.toNat - 2), rfl, by omega, by omega⟩

/-- Whether the block in `LEN` and `FLAG` is header-shaped (30_encoding.md R80) as one Bool. -/
def isHeaderShaped (len : U16) (flag : Byte) : Bool := decide (flag = 0x00#8 ∧ len = 0x0013#16)

theorem State.runBlock_parse_irrelevant {s : State} {len : U16} {flag : Byte} {p q : Bool} (h : len.toNat < 2) :
    s.runBlock len flag p = s.runBlock len flag q := by
  have hb : ∀ t : State, t.len = len → ∀ p q, t.blockBody p = t.blockBody q := by
    intro t ht p q
    unfold State.blockBody
    rw [if_pos (by rw [ht]; exact h), if_pos (by rw [ht]; exact h)]
  unfold State.runBlock
  split
  · rfl
  · simp only
    split
    · rfl
    · exact hb _ (by simp [State.advance]) _ _

/-- A block row's meaning is `runBlock` on the head it decodes from, parsing exactly the header-shaped blocks. -/
theorem exec_classify (s : State) (len : U16) (flag : Byte) :
    exec (classify len flag) s = s.runBlock len flag (isHeaderShaped len flag) := by
  unfold classify
  split
  · rename_i h
    subst h
    exact State.runBlock_parse_irrelevant (by decide)
  · split
    · rename_i h
      subst h
      exact State.runBlock_parse_irrelevant (by decide)
    · split
      · rename_i h
        obtain ⟨hf, hl⟩ := h
        subst hf hl
        rfl
      · split
        · rename_i h
          subst h
          simp [exec, execBlkData, isHeaderShaped]
        · rename_i h _
          simp [exec, execBlkOther, isHeaderShaped, h]

/-- With the whole head there, one pass of the loop is `runBlock` on it. -/
theorem State.scanPass_eq_runBlock {s : State} (hw : s.inLen < 2 ^ s.params.argw) (h : s.cur + 3 ≤ s.inLen) :
    s.scanPass =
      s.runBlock (u16le (s.byteAt .inp s.cur) (s.byteAt .inp (s.cur + 1))) (s.byteAt .inp (s.cur + 2))
        (isHeaderShaped (u16le (s.byteAt .inp s.cur) (s.byteAt .inp (s.cur + 1))) (s.byteAt .inp (s.cur + 2))) := by
  unfold State.scanPass State.runBlock
  rw [if_neg (by omega)]
  simp only [State.advance_eq (s := s.setLen _) (k := 2) (by simp; omega)]
  congr 1

/-- With one or two bytes left, a pass raises StreamTruncated. -/
theorem State.scanPass_headShort {s : State} (hw : s.inLen < 2 ^ s.params.argw) (h1 : s.cur < s.inLen)
    (h : s.inLen < s.cur + 3) :
    s.scanPass = .next (s.raise .streamTruncated) ∧ s.inLen = s.cur + 1 ∨
    s.scanPass = .next (((s.setLen (u16le (s.byteAt .inp s.cur) (s.byteAt .inp (s.cur + 1)))).atCur (s.cur + 2)).raise
      .streamTruncated) ∧ s.inLen = s.cur + 2 := by
  unfold State.scanPass
  rw [if_neg (by omega)]
  by_cases h2 : s.remaining < 2
  · rw [if_pos h2]
    simp only [State.remaining] at h2
    exact .inl ⟨rfl, by omega⟩
  · rw [if_neg h2]
    simp only [State.remaining] at h2
    simp only [State.advance_eq (s := s.setLen _) (k := 2) (by simp; omega)]
    rw [if_pos (by simp [State.remaining]; omega)]
    exact .inr ⟨rfl, by omega⟩

theorem State.headBytes_whole {s : State} (h : s.cur + 3 ≤ s.inLen) :
    s.headBytes = [s.byteAt .inp s.cur, s.byteAt .inp (s.cur + 1), s.byteAt .inp (s.cur + 2)] := by
  have : min 3 s.remaining = 3 := by simp only [State.remaining]; omega
  rw [State.headBytes, this]
  rfl

/-- Fetching the block at the cursor and running its instruction is one pass of the loop (log 9). -/
theorem State.scanBlock_eq_scanPass {s : State} (hw : s.inLen < 2 ^ s.params.argw) (hc : s.cur ≤ s.inLen) :
    s.scanBlock = s.scanPass := by
  unfold State.scanBlock
  by_cases h0 : s.cur = s.inLen
  · rw [if_pos h0, State.scanPass, if_pos h0]
  · rw [if_neg h0]
    by_cases h3 : s.cur + 3 ≤ s.inLen
    · rw [State.headBytes_whole h3, State.scanPass_eq_runBlock hw h3]
      simp only [decode]
      rw [exec_classify]
    · rcases State.scanPass_headShort hw (by omega) (by omega) with ⟨he, hr⟩ | ⟨he, hr⟩
      · have : s.headBytes = [s.byteAt .inp s.cur] := by
          have : min 3 s.remaining = 1 := by simp only [State.remaining]; omega
          rw [State.headBytes, this]; rfl
        rw [he, this]
        rfl
      · have : s.headBytes = [s.byteAt .inp s.cur, s.byteAt .inp (s.cur + 1)] := by
          have : min 3 s.remaining = 2 := by simp only [State.remaining]; omega
          rw [State.headBytes, this]; rfl
        rw [he, this]
        simp only [decode]
        rw [State.advance_eq (by simp; omega)]
        rfl

/-! ## Recording a block -/

/-- The record of the block in `LEN`, `FLAG`, `CHK`. -/
def State.recordOf (s : State) (parse : Bool) (payOff : Nat) (payload : List Byte) : BlockRecord where
  length   := s.len
  flag     := s.flag
  payOff   := payOff
  payload  := payload
  checksum := s.chk
  header   := if parse then unpack payload else none
  warn     := parse && (unpack payload).isNone

/-- Everything recording a block does (44_decode.md R159 to R162): refused when REC is full, else the record is appended,
counted, and, where a header was asked for and did not parse, warned about. -/
theorem State.recordBlock_cases (s : State) (parse : Bool) (payOff : Nat) (payload : List Byte) :
    (s.recFull = true ∧ s.recordBlock parse payOff payload = .refused .recordsBeyondCapacity) ∨
    (s.recFull = false ∧ ∃ t, s.recordBlock parse payOff payload = .next t ∧ State.SameFixed s t ∧ t.cur = s.cur ∧
      t.outLen = s.outLen ∧ t.acc = s.acc ∧ t.len = s.len ∧ t.flag = s.flag ∧ t.chk = s.chk ∧
      t.recCnt = s.fit (s.recCnt + 1) ∧
      t.recMem = Memory.write s.recMem s.recCnt (s.recordOf parse payOff payload) ∧
      t.warnCnt = (if parse && (unpack payload).isNone then s.fit (s.warnCnt + 1) else s.warnCnt) ∧
      t.status = (if parse && (unpack payload).isNone then s.status.warned else s.status) ∧
      (∀ h, parse = true → unpack payload = some h → t.hNlen = h.hNlen) ∧
      (parse = false ∨ unpack payload = none → t.hNlen = s.hNlen) ∧
      (parse = false → t.hType = s.hType ∧ t.hName = s.hName ∧ t.hDlen = s.hDlen ∧ t.hP1 = s.hP1 ∧ t.hP2 = s.hP2)) := by
  by_cases hf : s.recFull = true
  · left
    refine ⟨hf, ?_⟩
    unfold State.recordBlock
    cases parse
    · simp [State.appendRecord, hf]
    · cases unpack payload with
      | none =>
        have : ((s.setWarnCnt (s.warnCnt + 1)).setStatus s.status.warned).recFull = true := hf
        simp [State.appendRecord, this]
      | some h =>
        have : (s.loadHeader h).recFull = true := hf
        simp [State.appendRecord, this]
  · right
    rw [Bool.not_eq_true] at hf
    refine ⟨hf, ?_⟩
    unfold State.recordBlock
    cases parse
    · refine ⟨(s.putRec s.recCnt (s.recordOf false payOff payload)).setRecCnt (s.recCnt + 1), ?_, ?_⟩
      · simp only [State.appendRecord, hf]
        rfl
      · refine ⟨by constructor <;> simp, ?_⟩
        simp
    · cases hu : unpack payload with
      | none =>
        refine ⟨(((s.setWarnCnt (s.warnCnt + 1)).setStatus s.status.warned).putRec s.recCnt
          (s.recordOf true payOff payload)).setRecCnt (s.recCnt + 1), ?_, ?_⟩
        · have : ((s.setWarnCnt (s.warnCnt + 1)).setStatus s.status.warned).recFull = false := hf
          simp only [State.appendRecord, this, State.recordOf, hu]
          rfl
        · refine ⟨by constructor <;> simp, ?_⟩
          simp
      | some h =>
        refine ⟨((s.loadHeader h).putRec s.recCnt (s.recordOf true payOff payload)).setRecCnt (s.recCnt + 1), ?_, ?_⟩
        · have : (s.loadHeader h).recFull = false := hf
          simp only [State.appendRecord, this, State.recordOf, hu]
          rfl
        · refine ⟨by constructor <;> simp [State.loadHeader], ?_⟩
          simp [State.loadHeader]

/-- A record appended is the last of the valid records. -/
theorem State.records_append {s t : State} {r : BlockRecord} (hc : t.recCnt = s.recCnt + 1)
    (hm : t.recMem = Memory.write s.recMem s.recCnt r) : t.records = s.records ++ [r] := by
  unfold State.records State.record?
  rw [hc, List.range_succ, List.filterMap_append, hm]
  congr 1
  · apply List.filterMap_congr
    intro x hx
    rw [List.mem_range] at hx
    exact Memory.read?_write_other _ _ (by omega)
  · simp

end Sys2Proof.Machine
end

