-- ==== Sys2Proof/Laws/Stream.lean ====
section
/-! SUPPORT. The scan loop over a whole stream: on a sequence of frames it makes their records (44_decode.md R150), a scan
that succeeds has walked a sequence of frames (R167 (b)), and it always ends (R158). -/

namespace Sys2Proof.Machine

/-- The bytes of IN from the cursor on. -/
def State.rest (s : State) : List Byte := s.memRead .inp s.cur (s.inLen - s.cur)

@[simp] theorem State.rest_length (s : State) : s.rest.length = s.inLen - s.cur := by simp [State.rest]

theorem State.rest_getElem? (s : State) {i : Nat} (h : i < s.inLen - s.cur) :
    s.rest[i]? = some (s.byteAt .inp (s.cur + i)) := State.memRead_getElem? s .inp h

@[simp] theorem Frame.bytes_length (f : Frame) : f.bytes.length = f.payload.length + 4 := by
  simp [Frame.bytes, le16]

/-- What the bytes at the cursor are when a frame stands there. -/
structure State.FrameAt (s : State) (f : Frame) (rest : List Byte) : Prop where
  fits     : s.cur + (f.payload.length + 4) ≤ s.inLen
  length   : u16le (s.byteAt .inp s.cur) (s.byteAt .inp (s.cur + 1)) = BitVec.ofNat 16 (f.payload.length + 2)
  flag     : s.byteAt .inp (s.cur + 2) = f.flag
  payload  : s.memRead .inp (s.cur + 3) f.payload.length = f.payload
  checksum : s.byteAt .inp (s.cur + 3 + f.payload.length) = f.checksum
  rest     : s.memRead .inp (s.cur + (f.payload.length + 4)) (s.inLen - (s.cur + (f.payload.length + 4))) = rest

theorem State.frameAt_of_rest {s : State} {f : Frame} {rest : List Byte} (h : s.rest = f.bytes ++ rest) :
    s.FrameAt f rest := by
  have hl : s.inLen - s.cur = (f.payload.length + 4) + rest.length := by
    have := congrArg List.length h
    simpa using this
  have hfit : s.cur + (f.payload.length + 4) ≤ s.inLen := by omega
  have hsplit : s.rest = s.memRead .inp s.cur (f.payload.length + 4) ++
      s.memRead .inp (s.cur + (f.payload.length + 4)) rest.length := by
    rw [State.rest, hl, State.memRead_add]
  rw [hsplit] at h
  obtain ⟨hb, hr⟩ := List.append_inj h (by simp)
  have hbytes : s.memRead .inp s.cur (f.payload.length + 4) =
      s.byteAt .inp s.cur :: s.byteAt .inp (s.cur + 1) :: s.byteAt .inp (s.cur + 2) ::
        (s.memRead .inp (s.cur + 3) f.payload.length ++ [s.byteAt .inp (s.cur + 3 + f.payload.length)]) := by
    rw [State.memRead_succ, State.memRead_succ, State.memRead_succ, State.memRead_add]
    rfl
  rw [hbytes, Frame.bytes, le16_eq] at hb
  simp only [List.cons_append, List.nil_append, List.cons.injEq] at hb
  obtain ⟨h0, h1, h2, h3⟩ := hb
  obtain ⟨h4, h5⟩ := List.append_inj h3 (by simp)
  refine ⟨hfit, ?_, h2, h4, by simpa using h5, ?_⟩
  · rw [h0, h1, u16le_le16]
  · rw [← hr]
    congr 1
    omega

/-- The other direction: a whole block at the cursor is a frame. -/
theorem State.rest_of_whole {s : State} (h2 : 2 ≤ (u16le (s.byteAt .inp s.cur) (s.byteAt .inp (s.cur + 1))).toNat)
    (hin : s.cur + 2 + (u16le (s.byteAt .inp s.cur) (s.byteAt .inp (s.cur + 1))).toNat ≤ s.inLen) :
    ∃ f : Frame, f.payload.length + 2 = (u16le (s.byteAt .inp s.cur) (s.byteAt .inp (s.cur + 1))).toNat ∧
      s.rest = f.bytes ++ s.memRead .inp (s.cur + (f.payload.length + 4)) (s.inLen - (s.cur + (f.payload.length + 4))) := by
  generalize hL : u16le (s.byteAt .inp s.cur) (s.byteAt .inp (s.cur + 1)) = L at *
  refine ⟨⟨s.byteAt .inp (s.cur + 2), s.memRead .inp (s.cur + 3) (L.toNat - 2),
    s.byteAt .inp (s.cur + 3 + (L.toNat - 2))⟩, by simp; omega, ?_⟩
  simp only [State.memRead_length]
  have hlen : s.inLen - s.cur = (L.toNat - 2 + 4) + (s.inLen - (s.cur + (L.toNat - 2 + 4))) := by omega
  rw [State.rest, hlen, State.memRead_add]
  congr 1
  · rw [State.memRead_succ, State.memRead_succ, State.memRead_succ, State.memRead_add]
    have : BitVec.ofNat 16 (L.toNat - 2 + 2) = L := by
      rw [Nat.sub_add_cancel h2, BitVec.ofNat_toNat, BitVec.setWidth_eq]
    simp only [Frame.bytes, State.memRead_length, this]
    rw [← hL, le16_u16le]
    rfl

/-- The state of a scan under way whose counters cannot be cut (10_state.md R31, 44_decode.md R158). -/
structure State.Scanning (s : State) : Prop where
  width   : s.inLen < 2 ^ s.params.argw
  cursor  : s.cur ≤ s.inLen
  busy    : s.status.busy = true
  records : 4 * s.recCnt ≤ s.cur
  warns   : s.warnCnt ≤ s.recCnt

theorem State.Scanning.commandStart {s : State} (h : s.inLen < 2 ^ s.params.argw) : s.commandStart.Scanning := by
  constructor <;> simp [h]

/-- REC holds `n` more records. -/
def State.Room (s : State) (n : Nat) : Prop := ∀ m, s.params.recMax = some m → s.recCnt + n ≤ m

theorem State.Room.notFull {s : State} {n : Nat} (h : s.Room (n + 1)) : s.recFull = false := by
  unfold State.recFull
  split
  · rfl
  · rename_i m hm
    have := h m hm
    simp
    omega

/-- One pass over a frame: its record is appended, its bytes are passed, and a scan is still under way. -/
theorem State.scanPass_frame {s : State} {f : Frame} {rest : List Byte} (hs : s.Scanning) (hf : s.recFull = false)
    (hp : f.payload.length ≤ 65533) (hr : s.rest = f.bytes ++ rest) :
    ∃ t, s.scanPass = .next t ∧ t.Scanning ∧ State.SameFixed s t ∧ t.cur = s.cur + (f.payload.length + 4) ∧
      t.rest = rest ∧ t.recCnt = s.recCnt + 1 ∧ t.records = s.records ++ [f.record s.cur] ∧
      t.recMem = Memory.write s.recMem s.recCnt (f.record s.cur) ∧
      t.warnCnt = s.warnCnt + (f.record s.cur).warn.toNat ∧
      t.status = { s.status with warn := s.status.warn || (f.record s.cur).warn } ∧
      t.outLen = s.outLen ∧ t.acc = s.acc ∧ (s.hNlen.toNat ≤ 10 → t.hNlen.toNat ≤ 10) := by
  have ha := State.frameAt_of_rest hr
  have hfit := ha.fits
  have hL : (BitVec.ofNat 16 (f.payload.length + 2)).toNat = f.payload.length + 2 := by
    rw [BitVec.toNat_ofNat]; omega
  rw [State.scanPass_eq_runBlock hs.width (by omega), ha.length, ha.flag,
    State.runBlock_whole hs.width (by omega) (by omega), hL]
  have hpay : f.payload.length + 2 - 2 = f.payload.length := by omega
  rw [hpay, ha.payload]
  have hshape : isHeaderShaped (BitVec.ofNat 16 (f.payload.length + 2)) f.flag = f.headerShaped := by
    unfold isHeaderShaped Frame.headerShaped
    rw [Bool.eq_iff_iff]
    simp only [decide_eq_true_eq, Bool.and_eq_true, beq_iff_eq]
    refine and_congr_right fun _ => ?_
    rw [← BitVec.toNat_inj, hL]
    constructor
    · intro h; have : (0x0013#16).toNat = 19 := rfl; omega
    · intro h; have : (0x0013#16).toNat = 19 := rfl; omega
  rw [hshape]
  have hw2 := hs.width
  have hrec := hs.records
  have hwarn := hs.warns
  have hrecord : (s.readBlock (BitVec.ofNat 16 (f.payload.length + 2)) f.flag).recordOf f.headerShaped (s.cur + 3)
      f.payload = f.record s.cur := by
    have hchk : s.cur + 1 + (BitVec.ofNat 16 (f.payload.length + 2)).toNat = s.cur + 3 + f.payload.length := by omega
    simp only [State.recordOf, State.readBlock, Frame.record, hchk, ha.checksum]
  rcases State.recordBlock_cases (s.readBlock (BitVec.ofNat 16 (f.payload.length + 2)) f.flag) f.headerShaped
      (s.cur + 3) f.payload with ⟨hfull, -⟩ | ⟨-, t, ht, hfix, hcur, hout, hacc, -, -, -, hrc, hrm, hwc, hst, hn1, hn2, -⟩
  · rw [show State.recFull (s.readBlock (BitVec.ofNat 16 (f.payload.length + 2)) f.flag) = s.recFull from rfl, hf] at hfull
    cases hfull
  rw [hrecord] at hrm
  have hfix' : State.SameFixed s t := (State.SameFixed.readBlock s _ _).trans hfix
  have hcur' : t.cur = s.cur + (f.payload.length + 4) := by
    rw [hcur]; simp only [State.readBlock, hL]; omega
  have hrc' : t.recCnt = s.recCnt + 1 := by
    rw [hrc]
    exact State.fit_of_lt (s := s) (v := s.recCnt + 1) (by omega)
  have hw : (f.headerShaped && (unpack f.payload).isNone) = (f.record s.cur).warn := rfl
  rw [hw] at hwc hst
  have hwc' : t.warnCnt = s.warnCnt + (f.record s.cur).warn.toNat := by
    rw [hwc]
    cases (f.record s.cur).warn
    · rfl
    · exact State.fit_of_lt (s := s) (v := s.warnCnt + 1) (by omega)
  have hst' : t.status = { s.status with warn := s.status.warn || (f.record s.cur).warn } := by
    rw [hst]
    cases (f.record s.cur).warn
    · simp [State.readBlock]
    · simp [State.readBlock, Status.warned]
  refine ⟨t, ht, ⟨?_, ?_, ?_, ?_, ?_⟩, hfix', hcur', ?_, hrc', State.records_append hrc' hrm, hrm, hwc', hst', hout,
    hacc, ?_⟩
  · rw [hfix'.inLen, hfix'.params]; exact hs.width
  · rw [hcur', hfix'.inLen]; exact hfit
  · rw [hst']; exact hs.busy
  · rw [hcur', hrc']; omega
  · rw [hwc', hrc']
    have := Bool.toNat_le (f.record s.cur).warn
    omega
  · rw [State.rest, hcur', hfix'.inLen, hfix'.memRead]
    exact ha.rest
  · intro h10
    cases hsh : f.headerShaped
    · rw [hn2 (.inl hsh)]; exact h10
    · cases hu : unpack f.payload with
      | none => rw [hn2 (.inr hu)]; exact h10
      | some h =>
        rw [hn1 h hsh hu]
        unfold unpack at hu
        simp only at hu
        split at hu
        · cases hu
          have : ∀ (l : List Byte) (k : Nat), trimFrom l k ≤ k := by
            intro l k
            induction k with
            | zero => simp [trimFrom]
            | succ k ih => unfold trimFrom; split <;> omega
          have h10 := this (tenBytes fun i => f.payload.getD (1 + i) 0x00#8).toList 10
          simp only [BitVec.toNat_ofNat]
          omega
        · cases hu

@[simp] theorem recordsFrom_length (off : Nat) (fs : List Frame) : (recordsFrom off fs).length = fs.length := by
  induction fs generalizing off with
  | nil => rfl
  | cons f fs ih => simp [recordsFrom, ih]

/-- Passes that go on: the loop is the rest of the loop. -/
theorem State.scan_succ_busy {s t : State} {n : Nat} (h : s.scanPass = .next t) (hb : t.status.busy = true) :
    s.scan (n + 1) = t.scan n := by
  simp [State.scan, h, hb]

theorem State.scan_succ_idle {s t : State} {n : Nat} (h : s.scanPass = .next t) (hb : t.status.busy = false) :
    s.scan (n + 1) = .next t := by
  simp [State.scan, h, hb]

/-- The scan of a sequence of frames makes their records and ends (44_decode.md R150, R152). -/
theorem State.scan_frames {fs : List Frame} {s : State} {n : Nat} (hs : s.Scanning)
    (hp : ∀ f ∈ fs, f.payload.length ≤ 65533) (hr : s.rest = fs.flatMap Frame.bytes) (hroom : s.Room fs.length)
    (hn : fs.length < n) :
    ∃ t, s.scan n = .next t ∧ State.SameFixed s t ∧ t.recCnt = s.recCnt + fs.length ∧
      t.records = s.records ++ recordsFrom s.cur fs ∧
      t.warnCnt = s.warnCnt + (recordsFrom s.cur fs).countP BlockRecord.warn ∧
      t.status = { s.status.ended with warn := s.status.warn || (recordsFrom s.cur fs).any BlockRecord.warn } ∧
      t.outLen = s.outLen ∧ t.acc = s.acc := by
  induction fs generalizing s n with
  | nil =>
    obtain ⟨n, rfl⟩ : ∃ k, n = k + 1 := ⟨n - 1, by simp at hn; omega⟩
    have hc : s.cur = s.inLen := by
      have := congrArg List.length hr
      simp at this
      have := hs.cursor
      omega
    have hpass : s.scanPass = .next s.commandEnd := by rw [State.scanPass, if_pos hc]
    refine ⟨s.commandEnd, State.scan_succ_idle hpass (by simp), State.SameFixed.commandEnd s, ?_⟩
    simp [recordsFrom, State.records, State.record?, Status.ended]
    rfl
  | cons f fs ih =>
    obtain ⟨n, rfl⟩ : ∃ k, n = k + 1 := ⟨n - 1, by simp at hn; omega⟩
    have hroom' : s.Room (fs.length + 1) := hroom
    obtain ⟨t, ht, hts, hfix, hcur, hrest, hrc, hrec, -, hwc, hst, hout, hacc, -⟩ :=
      State.scanPass_frame hs hroom'.notFull (hp f List.mem_cons_self) (by rw [hr, List.flatMap_cons])
    have hroomt : t.Room fs.length := by
      intro m hm
      rw [hfix.params] at hm
      have := hroom' m hm
      omega
    obtain ⟨u, hu, hfix2, hrc2, hrec2, hwc2, hst2, hout2, hacc2⟩ :=
      ih hts (fun g hg => hp g (List.mem_cons_of_mem f hg)) hrest hroomt (Nat.lt_of_succ_lt_succ hn)
    refine ⟨u, by rw [State.scan_succ_busy ht hts.busy, hu], hfix.trans hfix2, ?_, ?_, ?_, ?_, hout2.trans hout,
      hacc2.trans hacc⟩
    · rw [hrc2, hrc, List.length_cons]; omega
    · rw [hrec2, hrec, hcur, recordsFrom, List.append_assoc]; rfl
    · rw [hwc2, hwc, hcur, recordsFrom, List.countP_cons]
      cases (f.record s.cur).warn <;> simp; omega
    · rw [hst2, hst, hcur, recordsFrom, List.any_cons]
      simp [Status.ended, Bool.or_assoc]

/-- One pass of a scan, by what stands at the cursor (44_decode.md R168). -/
theorem State.scanPass_cases {s : State} (hs : s.Scanning) :
    (s.cur = s.inLen ∧ s.scanPass = .next s.commandEnd) ∨
    (∃ (l : U16) (f : Byte) (c : Nat) (e : TapFault), (e = .streamTruncated ∨ e = .malformedBlock) ∧
      c ≤ s.inLen ∧ s.scanPass = .next ((((s.setLen l).setFlag f).atCur c).raise e)) ∨
    (∃ f : Frame, f.payload.length ≤ 65533 ∧
      s.rest = f.bytes ++ s.memRead .inp (s.cur + (f.payload.length + 4)) (s.inLen - (s.cur + (f.payload.length + 4))) ∧
      (s.recFull = true → s.scanPass = .refused .recordsBeyondCapacity)) := by
  have hw := hs.width
  have hcu := hs.cursor
  by_cases h0 : s.cur = s.inLen
  · exact .inl ⟨h0, by rw [State.scanPass, if_pos h0]⟩
  by_cases h3 : s.cur + 3 ≤ s.inLen
  · have heq := State.scanPass_eq_runBlock hw h3
    generalize hL : u16le (s.byteAt .inp s.cur) (s.byteAt .inp (s.cur + 1)) = L at heq
    by_cases h2 : 2 ≤ L.toNat
    · by_cases hin : s.cur + 2 + L.toNat ≤ s.inLen
      · right; right
        obtain ⟨f, hfl, hfr⟩ := State.rest_of_whole (s := s) (by rw [hL]; exact h2) (by rw [hL]; exact hin)
        rw [hL] at hfl
        refine ⟨f, by have := L.isLt; omega, hfr, ?_⟩
        intro hfull
        rw [heq, State.runBlock_whole hw h2 hin]
        rcases State.recordBlock_cases (s.readBlock L (s.byteAt .inp (s.cur + 2)))
          (isHeaderShaped L (s.byteAt .inp (s.cur + 2))) (s.cur + 3) (s.memRead .inp (s.cur + 3) (L.toNat - 2)) with
          ⟨-, h⟩ | ⟨h, -⟩
        · exact h
        · rw [show State.recFull (s.readBlock L (s.byteAt .inp (s.cur + 2))) = s.recFull from rfl, hfull] at h
          cases h
      · obtain ⟨c, hc, -, hle⟩ := State.runBlock_bodyShort (s := s) (flag := s.byteAt .inp (s.cur + 2))
          (parse := isHeaderShaped L (s.byteAt .inp (s.cur + 2))) hw h3 h2 (by omega)
        exact .inr (.inl ⟨_, _, c, _, .inl rfl, hle, heq.trans hc⟩)
    · exact .inr (.inl ⟨_, _, _, _, .inr rfl, h3, heq.trans (State.runBlock_lengthShort hw h3 (by omega))⟩)
  · rcases State.scanPass_headShort hw (by omega) (by omega) with ⟨h, -⟩ | ⟨h, h2⟩
    · exact .inr (.inl ⟨s.len, s.flag, s.cur, .streamTruncated, .inl rfl, hcu, h⟩)
    · have hflag : ∀ l : U16, (s.setLen l).setFlag s.flag = s.setLen l := fun _ => rfl
      refine .inr (.inl ⟨u16le (s.byteAt .inp s.cur) (s.byteAt .inp (s.cur + 1)), s.flag, s.cur + 2, .streamTruncated,
        .inl rfl, by omega, ?_⟩)
      rw [hflag, h]

/-- A scan that ends without a fault has walked a sequence of frames (44_decode.md R167 (b)). -/
theorem State.frames_of_scan {n : Nat} {s t : State} (hs : s.Scanning) (h0 : s.Room 0) (h : s.scan n = .next t)
    (hb : t.status.busy = false) (he : t.status.err = 0#3) :
    ∃ fs : List Frame, (∀ f ∈ fs, f.payload.length ≤ 65533) ∧ s.rest = fs.flatMap Frame.bytes ∧
      s.Room fs.length ∧ fs.length < n := by
  induction n generalizing s with
  | zero =>
    simp only [State.scan, Host.Outcome.next.injEq] at h
    rw [← h, hs.busy] at hb
    cases hb
  | succ n ih =>
    rcases State.scanPass_cases hs with ⟨hc, hp⟩ | ⟨l, f, c, e, -, -, hp⟩ | ⟨f, hlen, hrest, hfull⟩
    · refine ⟨[], by simp, ?_, ?_, by simp⟩
      · rw [State.rest, hc, Nat.sub_self]; rfl
      · exact h0
    · rw [State.scan_succ_idle hp (by simp)] at h
      cases h
      simp only [State.raise_status, Status.raised_err] at he
      exact absurd he (TapFault.code_ne_zero e)
    · cases hf : s.recFull
      · obtain ⟨u, hu, hus, hfix, hcur, hur, hrc, -⟩ := State.scanPass_frame hs hf hlen hrest
        rw [State.scan_succ_busy hu hus.busy] at h
        have hu0 : u.Room 0 := by
          intro m hm
          rw [hfix.params] at hm
          simp only [State.recFull, hm, decide_eq_false_iff_not] at hf
          omega
        obtain ⟨fs, h1, h2, h3, h4⟩ := ih hus hu0 h
        refine ⟨f :: fs, ?_, ?_, ?_, by simpa using h4⟩
        · intro g hg
          rcases List.mem_cons.mp hg with rfl | hg
          · exact hlen
          · exact h1 g hg
        · rw [List.flatMap_cons, ← h2, hur]; exact hrest
        · intro m hm
          have := h3 m (by rw [hfix.params]; exact hm)
          rw [List.length_cons]; omega
      · rw [State.scan, hfull hf] at h
        cases h

/-- A scan always ends (44_decode.md R158): with room for the records that fit behind the cursor, passes enough for the
bytes that remain leave the block idle. -/
theorem State.scan_ends {n : Nat} {s : State} (hs : s.Scanning) (herr : s.status.err = 0#3)
    (hout : s.outLen = 0) (hacc : s.acc = 0x00#8)
    (hroom : ∀ m, s.params.recMax = some m → s.recCnt + (s.inLen - s.cur) / 4 ≤ m) (hn : (s.inLen - s.cur) / 4 < n) :
    ∃ t, s.scan n = .next t ∧ State.SameFixed s t ∧ t.status.busy = false ∧ t.status.done = true ∧
      (t.status.err = 0#3 ∨ t.status = .faulted .streamTruncated ∨ t.status = .faulted .malformedBlock) ∧
      (t.status.err ≠ 0#3 → t.recCnt = 0 ∧ t.warnCnt = 0) ∧ 4 * t.recCnt ≤ s.inLen ∧ t.outLen = 0 ∧ t.acc = 0x00#8 := by
  induction n generalizing s with
  | zero => omega
  | succ n ih =>
    rcases State.scanPass_cases hs with ⟨hc, hp⟩ | ⟨l, f, c, e, he, -, hp⟩ | ⟨f, hlen, hrest, -⟩
    · refine ⟨s.commandEnd, State.scan_succ_idle hp (by simp), State.SameFixed.commandEnd s, ?_⟩
      have := hs.records
      simp [herr, hout, hacc]
      omega
    · refine ⟨_, State.scan_succ_idle hp (by simp), ?_, by simp, by simp, ?_, by simp, by simp, by simp, by simp⟩
      · constructor <;> simp [State.atCur]
      · right
        rcases he with rfl | rfl
        · exact .inl rfl
        · exact .inr rfl
    · have hfit := (State.frameAt_of_rest hrest).fits
      have hnf : s.recFull = false := by
        unfold State.recFull
        split
        · rfl
        · rename_i m hm
          have := hroom m hm
          simp
          omega
      obtain ⟨u, hu, hus, hfix, hcur, -, hrc, -, -, -, hst, ho, ha, -⟩ := State.scanPass_frame hs hnf hlen hrest
      have hin := hfix.inLen
      obtain ⟨t, ht, hfix2, h1⟩ := ih hus (by rw [hst]; exact herr) (ho.trans hout) (ha.trans hacc)
        (by
          intro m hm
          rw [hfix.params] at hm
          have := hroom m hm
          omega)
        (by omega)
      rw [hin] at h1
      exact ⟨t, by rw [State.scan_succ_busy hu hus.busy, ht], hfix.trans hfix2, h1⟩

end Sys2Proof.Machine
end

