-- ==== Sys2Proof/Laws/Step.lean ====
section
/-! SUPPORT. What a block and a step can do, said once for proofs to cite: a block reads, then faults or records; a step is
a host action, a pass of the scan, or nothing. And that every operation on the spaces keeps their canonical form. -/

namespace Sys2Proof.Machine

/-- The registers reading a block loads, and nothing else: `LEN`, `FLAG`, `CHK`, `CUR`. -/
def State.reading (s : State) (l : U16) (f k : Byte) (c : Nat) : State :=
  { s with len := l, flag := f, chk := k, cur := c }

section
variable (s : State) (l : U16) (f k : Byte) (c : Nat)
theorem State.SameFixed.reading : State.SameFixed s (s.reading l f k c) := by constructor <;> rfl
@[simp] theorem State.reading_status : (s.reading l f k c).status = s.status := rfl
@[simp] theorem State.reading_outLen : (s.reading l f k c).outLen = s.outLen := rfl
@[simp] theorem State.reading_recCnt : (s.reading l f k c).recCnt = s.recCnt := rfl
@[simp] theorem State.reading_warnCnt : (s.reading l f k c).warnCnt = s.warnCnt := rfl
@[simp] theorem State.reading_acc : (s.reading l f k c).acc = s.acc := rfl
@[simp] theorem State.reading_recMem : (s.reading l f k c).recMem = s.recMem := rfl
@[simp] theorem State.reading_recFull : (s.reading l f k c).recFull = s.recFull := rfl
@[simp] theorem State.reading_hType : (s.reading l f k c).hType = s.hType := rfl
@[simp] theorem State.reading_hName : (s.reading l f k c).hName = s.hName := rfl
@[simp] theorem State.reading_hNlen : (s.reading l f k c).hNlen = s.hNlen := rfl
@[simp] theorem State.reading_hDlen : (s.reading l f k c).hDlen = s.hDlen := rfl
@[simp] theorem State.reading_hP1 : (s.reading l f k c).hP1 = s.hP1 := rfl
@[simp] theorem State.reading_hP2 : (s.reading l f k c).hP2 = s.hP2 := rfl
@[simp] theorem State.reading_params : (s.reading l f k c).params = s.params := rfl
end

@[simp] theorem State.reading_reading (s : State) (l l' : U16) (f f' k k' : Byte) (c c' : Nat) :
    (s.reading l f k c).reading l' f' k' c' = s.reading l' f' k' c' := rfl

/-- The head of a block loaded: `LEN`, `FLAG`, and the cursor past three bytes. -/
theorem State.reading_head (s : State) (l : U16) (f : Byte) :
    (((s.setLen l).advance 2).setFlag f).advance 1 = s.reading l f s.chk (s.fit (s.fit (s.cur + 2) + 1)) := rfl

theorem State.blockBody_cases (s : State) (parse : Bool) :
    ∃ k c, (∃ e, (e = .streamTruncated ∨ e = .malformedBlock) ∧
        s.blockBody parse = .next ((s.reading s.len s.flag k c).raise e)) ∨
      ∃ o p, s.blockBody parse = (s.reading s.len s.flag k c).recordBlock parse o p := by
  unfold State.blockBody
  split
  · exact ⟨s.chk, s.cur, .inl ⟨_, .inr rfl, rfl⟩⟩
  · simp only
    split
    · exact ⟨s.chk, s.cur, .inl ⟨_, .inl rfl, rfl⟩⟩
    · split
      · exact ⟨s.chk, s.fit (s.cur + (s.len.toNat - 2)), .inl ⟨_, .inl rfl, rfl⟩⟩
      · exact ⟨_, _, .inr ⟨_, _, rfl⟩⟩

/-- A block instruction in any state: it loads the block's registers, then raises one of the two scan faults or records
the block (44_decode.md R153 to R162). -/
theorem State.runBlock_cases (s : State) (len : U16) (flag : Byte) (parse : Bool) :
    ∃ l f k c, (∃ e, (e = .streamTruncated ∨ e = .malformedBlock) ∧
        s.runBlock len flag parse = .next ((s.reading l f k c).raise e)) ∨
      ∃ o p, s.runBlock len flag parse = (s.reading l f k c).recordBlock parse o p := by
  unfold State.runBlock
  split
  · exact ⟨s.len, s.flag, s.chk, s.cur, .inl ⟨_, .inl rfl, rfl⟩⟩
  · simp only
    split
    · exact ⟨len, s.flag, s.chk, s.fit (s.cur + 2), .inl ⟨_, .inl rfl, rfl⟩⟩
    · rw [State.reading_head]
      obtain ⟨k, c, h⟩ := State.blockBody_cases (s.reading len flag s.chk (s.fit (s.fit (s.cur + 2) + 1))) parse
      exact ⟨len, flag, k, c, h⟩

/-- One pass of the loop in any state: the command end, one of the two scan faults, or a record. -/
theorem State.scanPass_forms (s : State) :
    s.scanPass = .next s.commandEnd ∨
    ∃ l f k c, (∃ e, (e = .streamTruncated ∨ e = .malformedBlock) ∧
        s.scanPass = .next ((s.reading l f k c).raise e)) ∨
      ∃ parse o p, s.scanPass = (s.reading l f k c).recordBlock parse o p := by
  unfold State.scanPass
  split
  · exact .inl rfl
  · right
    split
    · exact ⟨s.len, s.flag, s.chk, s.cur, .inl ⟨_, .inl rfl, rfl⟩⟩
    · simp only
      split
      · exact ⟨_, s.flag, s.chk, s.fit (s.cur + 2), .inl ⟨_, .inl rfl, rfl⟩⟩
      · rw [State.reading_head]
        generalize hl : u16le (s.byteAt .inp s.cur) (s.byteAt .inp (s.cur + 1)) = l
        generalize State.byteAt _ _ _ = f
        generalize hc : s.fit (s.fit (s.cur + 2) + 1) = c0
        obtain ⟨k, c, h⟩ := State.blockBody_cases (s.reading l f s.chk c0)
          (decide ((s.reading l f s.chk c0).flag = 0x00#8 ∧ (s.reading l f s.chk c0).len = 0x0013#16))
        rcases h with ⟨e, he, h⟩ | ⟨o, p, h⟩
        · exact ⟨l, f, k, c, .inl ⟨e, he, h⟩⟩
        · exact ⟨l, f, k, c, .inr ⟨_, o, p, h⟩⟩

/-- What every pass of a scan under way keeps, the loop keeps. -/
theorem State.scan_induction {P : State → Prop}
    (hpass : ∀ u v, P u → u.status.busy = true → u.scanPass = .next v → P v) {n : Nat} {s t : State} (hs : P s)
    (hb : s.status.busy = true) (ht : s.scan n = .next t) : P t := by
  induction n generalizing s with
  | zero => cases ht; exact hs
  | succ n ih =>
    unfold State.scan at ht
    split at ht
    · rename_i u hu
      split at ht
      · exact ih (hpass s u hs hb hu) ‹_› ht
      · cases ht
        exact hpass s _ hs hb hu
    · cases ht
    · cases ht

/-- What recording a block keeps of the fixed part of the state, when it appends. -/
theorem State.SameFixed.recordBlock {s t : State} {parse : Bool} {o : Nat} {p : List Byte}
    (ht : s.recordBlock parse o p = .next t) : State.SameFixed s t := by
  rcases State.recordBlock_cases s parse o p with ⟨-, h⟩ | ⟨-, u, hu, hfix, -⟩
  · rw [h] at ht
    cases ht
  · rw [hu] at ht
    cases ht
    exact hfix

theorem State.SameFixed.scanPass {s t : State} (ht : s.scanPass = .next t) : State.SameFixed s t := by
  rcases State.scanPass_forms s with h | ⟨l, f, k, c, ⟨e, -, h⟩ | ⟨parse, o, p, h⟩⟩
  · rw [h] at ht
    cases ht
    exact State.SameFixed.commandEnd s
  · rw [h] at ht
    cases ht
    exact (State.SameFixed.reading s l f k c).trans (State.SameFixed.raise _ e)
  · rw [h] at ht
    exact (State.SameFixed.reading s l f k c).trans (State.SameFixed.recordBlock ht)

theorem State.SameFixed.scan {n : Nat} {s t : State} (hb : s.status.busy = true) (ht : s.scan n = .next t) :
    State.SameFixed s t :=
  State.scan_induction (P := State.SameFixed s) (fun _ _ h _ hp => h.trans (State.SameFixed.scanPass hp))
    (State.SameFixed.refl s) hb ht

/-- A block in any state keeps the operands, the spaces the host and the emitter write, and the host's side. -/
theorem State.SameFixed.runBlock {s t : State} {len : U16} {flag : Byte} {parse : Bool}
    (ht : s.runBlock len flag parse = .next t) : State.SameFixed s t := by
  rcases State.runBlock_cases s len flag parse with ⟨l, f, k, c, ⟨e, -, h⟩ | ⟨o, p, h⟩⟩
  · rw [h] at ht
    cases ht
    exact (State.SameFixed.reading s l f k c).trans (State.SameFixed.raise _ e)
  · rw [h] at ht
    exact (State.SameFixed.reading s l f k c).trans (State.SameFixed.recordBlock ht)

/-! ## Emission in any state -/

/-- The registers and the space emission writes, and nothing else. -/
def State.emitting (s : State) (m : List Host.Cell) (o : Nat) (l : U16) (f k a : Byte) : State :=
  { s with outMem := m, outLen := o, len := l, flag := f, chk := k, acc := a }

section
variable (s : State) (m m' : List Host.Cell) (o o' : Nat) (l l' : U16) (f f' k k' a a' : Byte)
@[simp] theorem State.emitting_emitting :
    (s.emitting m o l f k a).emitting m' o' l' f' k' a' = s.emitting m' o' l' f' k' a' := rfl
@[simp] theorem State.emitting_len : (s.emitting m o l f k a).len = l := rfl
@[simp] theorem State.emitting_flag : (s.emitting m o l f k a).flag = f := rfl
@[simp] theorem State.emitting_chk : (s.emitting m o l f k a).chk = k := rfl
@[simp] theorem State.emitting_acc : (s.emitting m o l f k a).acc = a := rfl
@[simp] theorem State.emitting_outLen : (s.emitting m o l f k a).outLen = o := rfl
@[simp] theorem State.emitting_outMem : (s.emitting m o l f k a).outMem = m := rfl
end

theorem State.emit_form (s : State) (b : Byte) :
    s.emit b = s.emitting (Memory.write s.outMem s.outLen b) (s.fit (s.outLen + 1)) s.len s.flag s.chk s.acc := rfl

theorem State.setAcc_form (s : State) (b : Byte) :
    s.setAcc b = s.emitting s.outMem s.outLen s.len s.flag s.chk b := rfl

theorem State.setChk_form (s : State) (b : Byte) :
    s.setChk b = s.emitting s.outMem s.outLen s.len s.flag b s.acc := rfl

theorem State.setLenFlag_form (s : State) (l : U16) (f : Byte) :
    (s.setLen l).setFlag f = s.emitting s.outMem s.outLen l f s.chk s.acc := rfl

theorem State.emitAbsorb_form (s : State) (b : Byte) :
    s.emitAbsorb b =
      s.emitting (Memory.write s.outMem s.outLen b) (s.fit (s.outLen + 1)) s.len s.flag s.chk (s.acc ^^^ b) := rfl

theorem State.emitAbsorbSeq_form (s : State) (bs : List Byte) :
    ∃ m o a, bs.foldl State.emitAbsorb s = s.emitting m o s.len s.flag s.chk a := by
  induction bs generalizing s with
  | nil => exact ⟨s.outMem, s.outLen, s.acc, rfl⟩
  | cons b bs ih =>
    obtain ⟨m, o, a, h⟩ := ih (s.emitAbsorb b)
    exact ⟨m, o, a, by rw [List.foldl_cons, h, State.emitAbsorb_form]; rfl⟩

/-- `emit_block` in any state writes OUT, `OUT_LEN`, `LEN`, `FLAG`, `CHK` and `ACC` only. -/
theorem State.emitBlock_form (s : State) (f : Byte) (p : List Byte) :
    ∃ m o l k a, s.emitBlock f p = s.emitting m o l f k a := by
  have h2 : ∀ (u : State) (x y : Byte), ∃ m o, (u.emit x).emit y = u.emitting m o u.len u.flag u.chk u.acc :=
    fun u x y => ⟨_, _, rfl⟩
  unfold State.emitBlock
  simp only [State.setLenFlag_form]
  obtain ⟨m2, o2, h2⟩ := h2 (s.emitting s.outMem s.outLen (BitVec.ofNat 16 (p.length + 2)) f s.chk s.acc)
    ((BitVec.ofNat 16 (p.length + 2)).extractLsb' 0 8) ((BitVec.ofNat 16 (p.length + 2)).extractLsb' 8 8)
  simp only [State.emitting_len, h2]
  simp only [State.setAcc_form, State.emitAbsorb_form, State.emitting_emitting]
  obtain ⟨m3, o3, a3, h3⟩ := State.emitAbsorbSeq_form (s.emitting (Memory.write m2 o2 f)
    ((s.emitting m2 o2 (BitVec.ofNat 16 (p.length + 2)) f s.chk 0x00#8).fit (o2 + 1))
    (BitVec.ofNat 16 (p.length + 2)) f s.chk (0x00#8 ^^^ f)) p
  simp only [State.emitting_len, State.emitting_flag, State.emitting_chk, State.emitting_acc, State.emitting_outLen,
    State.emitting_outMem, h3, State.emitting_emitting, State.setChk_form, State.emit_form]
  exact ⟨_, _, _, _, _, rfl⟩

/-- The instructions that are blocks are `runBlock` on their own head. -/
theorem exec_block {i : Instr} (h : i.format = .framedBlock) (s : State) :
    ∃ len flag, exec i s = s.runBlock len flag (decide (i = .blkHdr)) := by
  cases i with
  | blkIllegalLen0 f => exact ⟨_, _, rfl⟩
  | blkIllegalLen1 f => exact ⟨_, _, rfl⟩
  | blkHdr => exact ⟨_, _, rfl⟩
  | blkData l => exact ⟨_, _, rfl⟩
  | blkOther l f => exact ⟨_, _, rfl⟩
  | csum => cases h
  | encHdr => cases h
  | encData => cases h
  | encTap => cases h
  | dec => cases h
  | reserved0 => cases h
  | reserved6 => cases h
  | reserved7 => cases h

@[simp] theorem State.commandStart_inBytes (s : State) : s.commandStart.inBytes = s.inBytes := by
  simp only [State.inBytes, State.commandStart_inLen]
  exact (State.SameFixed.commandStart s).memRead _ _ _

@[simp] theorem State.commandStart_nameBytes (s : State) : s.commandStart.nameBytes = s.nameBytes := by
  simp only [State.nameBytes, State.commandStart_nameLen]
  exact (State.SameFixed.commandStart s).memRead _ _ _

/-- What a command's next state is, in any state: a fault raised at the command start, the checksum, an emission, a packed
header and an emission, or the scan's. -/
theorem exec_command_cases {i : Instr} {s t : State} (hi : i.format = .cmd3) (h : exec i s = .next t) :
    (i ≠ .csum ∧ i ≠ .dec ∧ ∃ f, t = s.commandStart.raise f) ∨
    (i = .csum ∧ s.inLen ≤ s.params.inMax ∧ t = (s.commandStart.setAcc (xorFold s.inBytes)).commandEnd) ∨
    (i = .encData ∧ ∃ m o l f k a, t = (s.commandStart.emitting m o l f k a).commandEnd) ∨
    ((i = .encHdr ∨ i = .encTap) ∧
      ∃ nm d a m o l f k c, t = ((s.commandStart.pack nm d a).emitting m o l f k c).commandEnd) ∨
    (i = .dec ∧ s.inLen ≤ s.params.inMax ∧ s.commandStart.scan (s.inLen / 4 + 1) = .next t) := by
  cases i with
  | csum =>
    right; left
    simp only [exec, execCsum] at h
    split at h
    · cases h
    · cases h
      rw [State.absorbSeq_eq, State.commandStart_inBytes]
      refine ⟨rfl, by omega, ?_⟩
      simp
  | encHdr =>
    simp only [exec, execEncHdr] at h
    split at h
    · cases h
    · split at h
      · cases h
        exact .inl ⟨by simp, by simp, _, rfl⟩
      · split at h
        · cases h
        · simp only [Host.Outcome.next.injEq] at h
          generalize hx : s.commandStart.pack s.commandStart.nameBytes s.commandStart.aDlen s.commandStart.aAddr = x at h
          obtain ⟨m, o, l, k, a, he⟩ := State.emitBlock_form x 0x00#8 x.fieldPayload
          rw [he] at h
          subst hx
          exact .inr (.inr (.inr (.inl ⟨.inl rfl, _, _, _, _, _, _, _, _, _, h.symm⟩)))
  | encData =>
    simp only [exec, execEncData] at h
    split at h
    · cases h
    · split at h
      · cases h
        exact .inl ⟨by simp, by simp, _, rfl⟩
      · split at h
        · cases h
        · simp only [Host.Outcome.next.injEq] at h
          obtain ⟨m, o, l, k, a, he⟩ := State.emitBlock_form s.commandStart 0xFF#8 s.commandStart.inBytes
          rw [he] at h
          exact .inr (.inr (.inl ⟨rfl, _, _, _, _, _, _, h.symm⟩))
  | encTap =>
    simp only [exec, execEncTap] at h
    split at h
    · cases h
    · split at h
      · cases h
      · split at h
        · cases h
          exact .inl ⟨by simp, by simp, _, rfl⟩
        · split at h
          · cases h
            exact .inl ⟨by simp, by simp, _, rfl⟩
          · split at h
            · cases h
            · simp only [Host.Outcome.next.injEq] at h
              generalize hx : s.commandStart.pack s.commandStart.nameBytes s.commandStart.inLen
                s.commandStart.aAddr = x at h
              obtain ⟨m, o, l, k, a, he⟩ := State.emitBlock_form x 0x00#8 x.fieldPayload
              rw [he] at h
              generalize hy : x.emitting m o l 0x00#8 k a = y at h
              obtain ⟨m', o', l', k', a', he'⟩ := State.emitBlock_form y 0xFF#8 y.inBytes
              rw [he'] at h
              subst hy hx
              rw [State.emitting_emitting] at h
              exact .inr (.inr (.inr (.inl ⟨.inr rfl, _, _, _, _, _, _, _, _, _, h.symm⟩)))
  | dec =>
    simp only [exec, execDec] at h
    split at h
    · cases h
    · exact .inr (.inr (.inr (.inr ⟨rfl, by omega, h⟩)))
  | reserved0 => cases h; exact .inl ⟨by simp, by simp, _, rfl⟩
  | reserved6 => cases h; exact .inl ⟨by simp, by simp, _, rfl⟩
  | reserved7 => cases h; exact .inl ⟨by simp, by simp, _, rfl⟩
  | blkIllegalLen0 _ => cases hi
  | blkIllegalLen1 _ => cases hi
  | blkHdr => cases hi
  | blkData _ => cases hi
  | blkOther _ _ => cases hi

/-- What a step is: the host's next action, one pass of the scan under way, or nothing. -/
theorem step_cases (s : State) :
    (∃ a rest, s.host = a :: rest ∧ step s = (s.setHost rest).hostAct a) ∨
    (s.host = [] ∧ s.status.busy = true ∧ step s = s.scanStep) ∨
    (s.host = [] ∧ s.status.busy = false ∧ step s = .next s) := by
  unfold step State.stepOnce
  cases hh : s.host with
  | cons a rest => exact .inl ⟨a, rest, rfl, rfl⟩
  | nil =>
    cases hb : s.status.busy
    · exact .inr (.inr ⟨rfl, rfl, rfl⟩)
    · exact .inr (.inl ⟨rfl, rfl, rfl⟩)

/-! ## A scan under way, and what moved under it -/

/-! What `settle` leaves of each field: IN is the host's, what moved is kept while the scan is under way, and every other
field is the scan's. -/
section
variable (s t : State)
@[simp] theorem State.settle_params : (s.settle t).params = t.params := rfl
@[simp] theorem State.settle_status : (s.settle t).status = t.status := rfl
@[simp] theorem State.settle_aDlen : (s.settle t).aDlen = t.aDlen := rfl
@[simp] theorem State.settle_aAddr : (s.settle t).aAddr = t.aAddr := rfl
@[simp] theorem State.settle_inLen : (s.settle t).inLen = t.inLen := rfl
@[simp] theorem State.settle_nameLen : (s.settle t).nameLen = t.nameLen := rfl
@[simp] theorem State.settle_outLen : (s.settle t).outLen = t.outLen := rfl
@[simp] theorem State.settle_recCnt : (s.settle t).recCnt = t.recCnt := rfl
@[simp] theorem State.settle_warnCnt : (s.settle t).warnCnt = t.warnCnt := rfl
@[simp] theorem State.settle_acc : (s.settle t).acc = t.acc := rfl
@[simp] theorem State.settle_cur : (s.settle t).cur = t.cur := rfl
@[simp] theorem State.settle_hNlen : (s.settle t).hNlen = t.hNlen := rfl
@[simp] theorem State.settle_inMem : (s.settle t).inMem = s.inMem := rfl
@[simp] theorem State.settle_nameMem : (s.settle t).nameMem = t.nameMem := rfl
@[simp] theorem State.settle_outMem : (s.settle t).outMem = t.outMem := rfl
@[simp] theorem State.settle_recMem : (s.settle t).recMem = t.recMem := rfl
@[simp] theorem State.settle_moved : (s.settle t).moved = if t.status.busy then s.moved else [] := rfl
@[simp] theorem State.settle_host : (s.settle t).host = t.host := rfl
@[simp] theorem State.settle_records : (s.settle t).records = t.records := rfl
end

/-- Where nothing moved the scan reads IN itself. -/
theorem State.scanned_of_still {s : State} (h : s.moved = []) : s.scanned = s := by
  cases s
  cases h
  rfl

/-- Where nothing moved and a next state keeps IN and what moved, settling changes nothing. -/
theorem State.settled_of_still {s : State} {o : Host.Outcome State Fault Refusal} (h : s.moved = [])
    (ho : ∀ t, o = .next t → State.SameFixed s t) : s.settled o = o := by
  cases o with
  | next t =>
    have hf := ho t rfl
    have hm : t.moved = [] := hf.moved.trans h
    simp only [State.settled, State.settle, h, ite_self]
    rw [← hf.inMem, ← hm]
  | fault e => rfl
  | refused r => rfl

/-- A byte of IN as the scan reads it: what moved there, else what IN holds. -/
theorem State.scanned_byteAt {s : State} (h : Memory.wf s.moved = true) (a : Nat) :
    s.scanned.byteAt .inp a = (Memory.read? s.moved a).getD (s.byteAt .inp a) := by
  show (Memory.read? (Memory.writeCells s.inMem s.moved) a).getD (Config.unwrittenByte s.epoch .inp a) = _
  rw [Memory.read?_writeCells s.inMem h]
  cases Memory.read? s.moved a <;> rfl

/-- Whatever the decoder reads is of the format asked for. -/
theorem format_of_decode {fmt : Format} {bytes rest : List Byte} {i : Instr} (h : decode fmt bytes = .ok (i, rest)) :
    i.format = fmt := by
  unfold decode at h
  split at h
  · cases h
  · cases h
    exact (by decide : ∀ c : BitVec 3, (decodeCode c).format = .cmd3) _
  · cases h
    unfold classify
    repeat' split
    all_goals rfl
  · cases h
  · cases h
  · cases h

/-- A block of a scan keeps everything but the results and the internal registers. -/
theorem State.SameFixed.scanBlock {s t : State} (h : s.scanBlock = .next t) : State.SameFixed s t := by
  unfold State.scanBlock at h
  split at h
  · cases h
    exact State.SameFixed.commandEnd s
  · split at h
    · rename_i i rest hd
      have hf := format_of_decode hd
      obtain ⟨len, flag, he⟩ := exec_block hf s
      rw [he] at h
      exact State.SameFixed.runBlock h
    · cases h
      exact (State.SameFixed.reading s _ s.flag s.chk _).trans (State.SameFixed.raise _ _)
    · cases h
      exact State.SameFixed.raise s _

/-- Where nothing moved a step of the scan is its next block. -/
theorem State.scanStep_of_still {s : State} (h : s.moved = []) : s.scanStep = s.scanBlock := by
  unfold State.scanStep
  rw [State.scanned_of_still h]
  exact State.settled_of_still h fun _ => State.SameFixed.scanBlock

/-- A step of a scan under way is a pass of the loop of 44_decode.md R150 over IN as the scan reads it. -/
theorem State.scanStep_eq_scanPass {s : State} (hw : s.inLen < 2 ^ s.params.argw) (hc : s.cur ≤ s.inLen) :
    s.scanStep = s.settled s.scanned.scanPass := by
  unfold State.scanStep
  rw [State.scanBlock_eq_scanPass (s := s.scanned) hw hc]

/-- A state with another record of what moved. -/
def State.withMoved (m : List Host.Cell) (s : State) : State := { s with moved := m }

/-- `withMoved` of an outcome. -/
def withMovedOut (m : List Host.Cell) : Host.Outcome State Fault Refusal → Host.Outcome State Fault Refusal
  | .next t => .next (t.withMoved m)
  | .fault e => .fault e
  | .refused r => .refused r

theorem State.appendRecord_withMoved (m : List Host.Cell) (s : State) (r : BlockRecord) :
    (s.withMoved m).appendRecord r = withMovedOut m (s.appendRecord r) := by
  unfold State.appendRecord
  rw [show (s.withMoved m).recFull = s.recFull from rfl]
  split <;> rfl

theorem State.recordBlock_withMoved (m : List Host.Cell) (s : State) (parse : Bool) (o : Nat) (p : List Byte) :
    (s.withMoved m).recordBlock parse o p = withMovedOut m (s.recordBlock parse o p) := by
  unfold State.recordBlock
  simp only
  split
  · cases unpack p with
    | some h => exact State.appendRecord_withMoved m (s.loadHeader h) _
    | none => exact State.appendRecord_withMoved m ((s.setWarnCnt (s.warnCnt + 1)).setStatus s.status.warned) _
  · exact State.appendRecord_withMoved m s _

theorem State.blockBody_withMoved (m : List Host.Cell) (s : State) (parse : Bool) :
    (s.withMoved m).blockBody parse = withMovedOut m (s.blockBody parse) := by
  unfold State.blockBody
  rw [show (s.withMoved m).len = s.len from rfl]
  split
  · rfl
  · simp only
    rw [show (s.withMoved m).remaining = s.remaining from rfl]
    split
    · rfl
    · generalize hu : s.advance (s.len.toNat - 2) = u
      have he : (s.withMoved m).advance (s.len.toNat - 2) = u.withMoved m := by rw [← hu]; rfl
      rw [he, show (u.withMoved m).remaining = u.remaining from rfl]
      split
      · rfl
      · exact State.recordBlock_withMoved m ((u.setChk (u.byteAt .inp u.cur)).advance 1) parse _ _

/-- A pass of a scan neither reads nor writes what moved: `scanned` has put it in IN already. -/
theorem State.scanPass_withMoved (m : List Host.Cell) (s : State) :
    (s.withMoved m).scanPass = withMovedOut m s.scanPass := by
  unfold State.scanPass
  rw [show (s.withMoved m).cur = s.cur from rfl, show (s.withMoved m).inLen = s.inLen from rfl]
  split
  · rfl
  · rw [show (s.withMoved m).remaining = s.remaining from rfl]
    split
    · rfl
    · simp only
      generalize hu : (s.setLen (u16le (s.byteAt .inp s.cur) (s.byteAt .inp (s.cur + 1)))).advance 2 = u
      have he : ((s.withMoved m).setLen (u16le ((s.withMoved m).byteAt .inp s.cur)
          ((s.withMoved m).byteAt .inp (s.cur + 1)))).advance 2 = u.withMoved m := by rw [← hu]; rfl
      rw [he, show (u.withMoved m).remaining = u.remaining from rfl]
      split
      · rfl
      · exact State.blockBody_withMoved m ((u.setFlag (u.byteAt .inp u.cur)).advance 1) _

/-- A block of a scan done and settled, the scan goes on from where it was. -/
theorem State.scanned_settle {s t : State} (hf : State.SameFixed s.scanned t) (hb : t.status.busy = true) :
    (s.settle t).scanned = t := by
  have h1 : t.inMem = Memory.writeCells s.inMem s.moved := hf.inMem
  have h2 : t.moved = s.moved := hf.moved
  simp only [State.scanned, State.settle, hb, if_true]
  rw [← h1, ← h2]

theorem State.settled_settle {s t : State} (hb : t.status.busy = true) (o : Host.Outcome State Fault Refusal) :
    (s.settle t).settled o = s.settled o := by
  cases o <;> simp [State.settled, State.settle, hb]

/-- Noting what moved writes the model's own fields only, and nothing while the block is idle. -/
theorem State.noteMoved_form (s : State) (a : Nat) :
    ∃ m n, s.noteMoved a = { s with moved := m, free := n } ∧
      (s.status.busy = false → m = s.moved ∧ n = s.free) ∧
      (s.status.busy = true → m = Memory.write s.moved a (Config.freeByte s.free) ∧ n = s.free + 1) := by
  unfold State.noteMoved
  split
  · rename_i h
    exact ⟨_, _, rfl, fun hb => absurd (hb.symm.trans h) (by decide), fun _ => ⟨rfl, rfl⟩⟩
  · rename_i h
    exact ⟨_, _, rfl, fun _ => ⟨rfl, rfl⟩, fun hb => absurd hb h⟩

/-! ## Runs -/

theorem run_zero (s : State) : Host.Core.run Sys2Proof.core 0 s = .next s := rfl

theorem core_run_succ_next (M : Host.Core) {s t : M.State} (n : Nat) (h : M.step s = .next t) :
    M.run (n + 1) s = M.run n t := by
  simp only [Host.Core.run, h]

theorem core_run_succ_refused (M : Host.Core) {s : M.State} {e : M.Refusal} (n : Nat) (h : M.step s = .refused e) :
    M.run (n + 1) s = .refused e := by
  simp only [Host.Core.run, h]

theorem core_run_succ_fault (M : Host.Core) {s : M.State} {e : M.Fault} (n : Nat) (h : M.step s = .fault e) :
    M.run (n + 1) s = .fault e := by
  simp only [Host.Core.run, h]

theorem run_succ_next {s t : State} (n : Nat) (h : step s = .next t) :
    Host.Core.run Sys2Proof.core (n + 1) s = Host.Core.run Sys2Proof.core n t :=
  core_run_succ_next Sys2Proof.core n h

theorem run_succ_refused {s : State} {e : Refusal} (n : Nat) (h : step s = .refused e) :
    Host.Core.run Sys2Proof.core (n + 1) s = .refused e :=
  core_run_succ_refused Sys2Proof.core n h

theorem run_succ_fault {s : State} {e : Fault} (n : Nat) (h : step s = .fault e) :
    Host.Core.run Sys2Proof.core (n + 1) s = .fault e :=
  core_run_succ_fault Sys2Proof.core n h

/-- An idle block with no host action to come stays as it is. -/
theorem run_idle {s : State} (n : Nat) (hh : s.host = []) (hb : s.status.busy = false) :
    Host.Core.run Sys2Proof.core n s = .next s := by
  induction n with
  | zero => rfl
  | succ n ih =>
    have h : step s = .next s := by
      unfold step State.stepOnce
      rw [hh, hb]
      rfl
    rw [run_succ_next n h, ih]

/-! ## The canonical form -/

/-- Every space is in its canonical form. -/
def State.SpacesWf (s : State) : Prop :=
  Memory.wf s.inMem = true ∧ Memory.wf s.nameMem = true ∧ Memory.wf s.outMem = true ∧ Memory.wf s.recMem = true

theorem State.SpacesWf.reset : State.reset.SpacesWf := ⟨rfl, rfl, rfl, rfl⟩

theorem State.SpacesWf.commandStart {s : State} (h : s.SpacesWf) : s.commandStart.SpacesWf := by
  simpa [State.SpacesWf] using h

theorem State.SpacesWf.commandEnd {s : State} (h : s.SpacesWf) : s.commandEnd.SpacesWf := by
  simpa [State.SpacesWf] using h

theorem State.SpacesWf.raise {s : State} (h : s.SpacesWf) (f : TapFault) : (s.raise f).SpacesWf := by
  simpa [State.SpacesWf] using h

theorem State.SpacesWf.reading {s : State} (h : s.SpacesWf) (l : U16) (f k : Byte) (c : Nat) :
    (s.reading l f k c).SpacesWf := h

theorem State.SpacesWf.putIn {s : State} (h : s.SpacesWf) (a : Nat) (b : Byte) : (s.putIn a b).SpacesWf :=
  ⟨Memory.wf_write a b h.1, h.2⟩

theorem State.SpacesWf.putName {s : State} (h : s.SpacesWf) (a : Nat) (b : Byte) : (s.putName a b).SpacesWf :=
  ⟨h.1, Memory.wf_write a b h.2.1, h.2.2⟩

theorem State.SpacesWf.putOut {s : State} (h : s.SpacesWf) (a : Nat) (b : Byte) : (s.putOut a b).SpacesWf :=
  ⟨h.1, h.2.1, Memory.wf_write a b h.2.2.1, h.2.2.2⟩

theorem State.SpacesWf.putRec {s : State} (h : s.SpacesWf) (i : Nat) (r : BlockRecord) : (s.putRec i r).SpacesWf :=
  ⟨h.1, h.2.1, h.2.2.1, Memory.wf_write i r h.2.2.2⟩

theorem State.SpacesWf.emit {s : State} (h : s.SpacesWf) (b : Byte) : (s.emit b).SpacesWf := h.putOut s.outLen b

theorem State.SpacesWf.emitAbsorb {s : State} (h : s.SpacesWf) (b : Byte) : (s.emitAbsorb b).SpacesWf := h.emit b

theorem State.SpacesWf.emitAbsorbSeq {s : State} (h : s.SpacesWf) (bs : List Byte) :
    (bs.foldl State.emitAbsorb s).SpacesWf := by
  induction bs generalizing s with
  | nil => exact h
  | cons b bs ih => exact ih (h.emitAbsorb b)

theorem State.SpacesWf.emitBlock {s : State} (h : s.SpacesWf) (f : Byte) (p : List Byte) :
    (s.emitBlock f p).SpacesWf := by
  have h0 : ((s.setLen (BitVec.ofNat 16 (p.length + 2))).setFlag f).SpacesWf := h
  unfold State.emitBlock
  simp only
  generalize (s.setLen (BitVec.ofNat 16 (p.length + 2))).setFlag f = u at h0 ⊢
  have h1 := (h0.emit (u.len.extractLsb' 0 8)).emit (u.len.extractLsb' 8 8)
  generalize (u.emit (u.len.extractLsb' 0 8)).emit (u.len.extractLsb' 8 8) = v at h1 ⊢
  have h2 : (v.setAcc 0x00#8).SpacesWf := h1
  have h3 := (h2.emitAbsorb f).emitAbsorbSeq p
  generalize p.foldl State.emitAbsorb ((v.setAcc 0x00#8).emitAbsorb f) = w at h3 ⊢
  have h4 : (w.setChk w.acc).SpacesWf := h3
  exact h4.emit _

theorem State.SpacesWf.pack {s : State} (h : s.SpacesWf) (nm : List Byte) (d a : Nat) : (s.pack nm d a).SpacesWf := h

theorem State.SpacesWf.appendRecord {s t : State} {r : BlockRecord} (h : s.SpacesWf)
    (ht : s.appendRecord r = .next t) : t.SpacesWf := by
  unfold State.appendRecord at ht
  split at ht
  · cases ht
  · cases ht
    exact h.putRec s.recCnt r

theorem State.SpacesWf.recordBlock {s t : State} {parse : Bool} {o : Nat} {p : List Byte} (h : s.SpacesWf)
    (ht : s.recordBlock parse o p = .next t) : t.SpacesWf := by
  unfold State.recordBlock at ht
  simp only at ht
  split at ht
  · split at ht
    · exact State.SpacesWf.appendRecord (s := State.loadHeader _ _) h ht
    · exact State.SpacesWf.appendRecord (s := (s.setWarnCnt (s.warnCnt + 1)).setStatus s.status.warned) h ht
  · exact State.SpacesWf.appendRecord h ht

theorem State.SpacesWf.scanPass {s t : State} (h : s.SpacesWf) (ht : s.scanPass = .next t) : t.SpacesWf := by
  rcases State.scanPass_forms s with h1 | ⟨l, f, k, c, ⟨e, -, h1⟩ | ⟨parse, o, p, h1⟩⟩
  · rw [h1] at ht
    cases ht
    exact h.commandEnd
  · rw [h1] at ht
    cases ht
    exact (h.reading l f k c).raise e
  · rw [h1] at ht
    exact State.SpacesWf.recordBlock (s := s.reading l f k c) h ht

theorem State.SpacesWf.runBlock {s t : State} {len : U16} {flag : Byte} {parse : Bool} (h : s.SpacesWf)
    (ht : s.runBlock len flag parse = .next t) : t.SpacesWf := by
  rcases State.runBlock_cases s len flag parse with ⟨l, f, k, c, ⟨e, -, h1⟩ | ⟨o, p, h1⟩⟩
  · rw [h1] at ht
    cases ht
    exact (h.reading l f k c).raise e
  · rw [h1] at ht
    exact State.SpacesWf.recordBlock (s := s.reading l f k c) h ht

theorem State.SpacesWf.scan {n : Nat} {s t : State} (h : s.SpacesWf) (hb : s.status.busy = true)
    (ht : s.scan n = .next t) : t.SpacesWf :=
  State.scan_induction (P := State.SpacesWf) (fun _ _ hu _ hp => hu.scanPass hp) h hb ht

/-- Every instruction keeps the canonical form of the spaces. -/
theorem State.SpacesWf.exec {i : Instr} {s t : State} (h : s.SpacesWf) (ht : Machine.exec i s = .next t) :
    t.SpacesWf := by
  have hs : s.commandStart.SpacesWf := h.commandStart
  by_cases hb : i.format = .framedBlock
  · obtain ⟨len, flag, he⟩ := exec_block hb s
    rw [he] at ht
    exact h.runBlock ht
  cases i with
  | csum =>
    simp only [Machine.exec, execCsum] at ht
    split at ht
    · cases ht
    · cases ht
      rw [State.absorbSeq_eq]
      exact State.SpacesWf.commandEnd (s := s.commandStart.setAcc _) hs
  | encHdr =>
    simp only [Machine.exec, execEncHdr] at ht
    split at ht
    · cases ht
    · split at ht
      · cases ht; exact hs.raise _
      · split at ht
        · cases ht
        · cases ht
          exact ((hs.pack _ _ _).emitBlock _ _).commandEnd
  | encData =>
    simp only [Machine.exec, execEncData] at ht
    split at ht
    · cases ht
    · split at ht
      · cases ht; exact hs.raise _
      · split at ht
        · cases ht
        · cases ht
          exact (hs.emitBlock _ _).commandEnd
  | encTap =>
    simp only [Machine.exec, execEncTap] at ht
    split at ht
    · cases ht
    · split at ht
      · cases ht
      · split at ht
        · cases ht; exact hs.raise _
        · split at ht
          · cases ht; exact hs.raise _
          · split at ht
            · cases ht
            · cases ht
              exact (((hs.pack _ _ _).emitBlock _ _).emitBlock _ _).commandEnd
  | dec =>
    simp only [Machine.exec, execDec] at ht
    split at ht
    · cases ht
    · exact hs.scan (by simp) ht
  | reserved0 => cases ht; exact hs.raise _
  | reserved6 => cases ht; exact hs.raise _
  | reserved7 => cases ht; exact hs.raise _
  | blkIllegalLen0 _ => exact absurd rfl hb
  | blkIllegalLen1 _ => exact absurd rfl hb
  | blkHdr => exact absurd rfl hb
  | blkData _ => exact absurd rfl hb
  | blkOther _ _ => exact absurd rfl hb

/-! ## Storing a run of contents at once -/

section
variable {α : Type}

theorem Memory.read?_append (m n : List (Nat × α)) (x : Nat) :
    Memory.read? (m ++ n) x = (Memory.read? m x).or (Memory.read? n x) := by
  induction m with
  | nil => rfl
  | cons c m ih =>
    obtain ⟨k, v⟩ := c
    simp only [List.cons_append, Memory.read?_cons, ih]
    split <;> rfl

theorem Memory.read?_filter (m : List (Nat × α)) (p : Nat → Bool) (x : Nat) :
    Memory.read? (m.filter fun c => p c.1) x = if p x then Memory.read? m x else none := by
  induction m with
  | nil => simp
  | cons c m ih =>
    obtain ⟨k, v⟩ := c
    by_cases hk : k = x
    · subst hk; by_cases hp : p k <;> simp_all [Memory.read?_cons]
    · by_cases hp : p k <;> simp_all [Memory.read?_cons]

theorem Memory.read?_cellsFrom (a : Nat) (vs : List α) (x : Nat) :
    Memory.read? (Memory.cellsFrom a vs) x = if a ≤ x then vs[x - a]? else none := by
  induction vs generalizing a with
  | nil => simp [Memory.cellsFrom]
  | cons v vs ih =>
    rw [Memory.cellsFrom, Memory.read?_cons, ih]
    by_cases h : a = x
    · subst h; simp
    · by_cases h2 : a ≤ x
      · rw [if_neg h, if_pos (by omega), if_pos h2, show x - a = x - (a + 1) + 1 by omega, List.getElem?_cons_succ]
      · rw [if_neg h, if_neg (by omega), if_neg h2]

/-- A run stored at once reads back, and every other offset reads as before. -/
theorem Memory.read?_splice (m : List (Nat × α)) (a : Nat) (vs : List α) (x : Nat) :
    Memory.read? (Memory.splice m a vs) x =
      if a ≤ x ∧ x < a + vs.length then vs[x - a]? else Memory.read? m x := by
  rw [Memory.splice, Memory.read?_append, Memory.read?_append, Memory.read?_cellsFrom,
    Memory.read?_filter m (fun k => decide (k < a)), Memory.read?_filter m (fun k => decide (a + vs.length ≤ k))]
  by_cases h1 : a ≤ x
  · by_cases h2 : x < a + vs.length
    · have : vs[x - a]? = some vs[x - a] := List.getElem?_eq_getElem (by omega)
      simp [h1, h2, this, Nat.not_lt.2 h1]
    · have : vs[x - a]? = none := List.getElem?_eq_none (by omega)
      simp [h1, h2, this, Nat.not_lt.2 h1, Nat.not_lt.1 h2]
  · have h2 : ¬ a + vs.length ≤ x := by omega
    simp [h1, h2, Nat.lt_of_not_le h1]

theorem Memory.risingFrom_iff {m : List (Nat × α)} {lo : Nat} :
    Memory.risingFrom lo m = true ↔ (∀ c ∈ m, lo ≤ c.1) ∧ m.Pairwise (fun c d => c.1 < d.1) := by
  induction m generalizing lo with
  | nil => simp [Memory.risingFrom]
  | cons c m ih =>
    simp only [Memory.risingFrom, Bool.and_eq_true, decide_eq_true_eq, ih, List.pairwise_cons, List.forall_mem_cons]
    constructor
    · rintro ⟨h1, h2, h3⟩
      exact ⟨⟨h1, fun d hd => by have := h2 d hd; omega⟩, fun d hd => by have := h2 d hd; omega, h3⟩
    · rintro ⟨⟨h1, -⟩, h2, h3⟩
      exact ⟨h1, fun d hd => h2 d hd, h3⟩

theorem Memory.cellsFrom_bounds {a : Nat} {vs : List α} : ∀ c ∈ Memory.cellsFrom a vs, a ≤ c.1 ∧ c.1 < a + vs.length := by
  induction vs generalizing a with
  | nil => simp [Memory.cellsFrom]
  | cons v vs ih =>
    simp only [Memory.cellsFrom, List.forall_mem_cons, List.length_cons]
    exact ⟨by omega, fun c hc => by have := ih c hc; omega⟩

theorem Memory.cellsFrom_pairwise (a : Nat) (vs : List α) :
    (Memory.cellsFrom a vs).Pairwise (fun c d => c.1 < d.1) := by
  induction vs generalizing a with
  | nil => exact .nil
  | cons v vs ih => exact .cons (fun c hc => by have := Memory.cellsFrom_bounds c hc; show a < c.1; omega) (ih _)

/-- Storing a run at once keeps the canonical form. -/
theorem Memory.wf_splice {m : List (Nat × α)} (a : Nat) (vs : List α) (hm : Memory.wf m = true) :
    Memory.wf (Memory.splice m a vs) = true := by
  have hp := (Memory.risingFrom_iff.1 hm).2
  refine Memory.risingFrom_iff.2 ⟨fun _ _ => Nat.zero_le _, ?_⟩
  refine List.pairwise_append.2 ⟨hp.filter _, List.pairwise_append.2 ⟨Memory.cellsFrom_pairwise a vs, hp.filter _, ?_⟩, ?_⟩
  · intro c hc d hd
    have h1 := Memory.cellsFrom_bounds c hc
    have h2 := (List.mem_filter.1 hd).2
    simp only [decide_eq_true_eq] at h2
    omega
  · intro c hc d hd
    have h1 := (List.mem_filter.1 hc).2
    simp only [decide_eq_true_eq] at h1
    rcases List.mem_append.1 hd with h | h
    · have := Memory.cellsFrom_bounds d h; omega
    · have h2 := (List.mem_filter.1 h).2
      simp only [decide_eq_true_eq] at h2
      omega

/-- On a canonical memory it is the writes one after another. -/
theorem Memory.splice_eq_writeSeq {m : List (Nat × α)} (a : Nat) (vs : List α) (hm : Memory.wf m = true) :
    Memory.splice m a vs = Memory.writeSeq m a vs := by
  refine Memory.ext_of_wf (lo := 0) (Memory.wf_splice a vs hm) (Memory.wf_writeSeq a vs hm) fun x => ?_
  rw [Memory.read?_splice]
  split
  · rename_i h
    obtain ⟨i, rfl⟩ := Nat.exists_eq_add_of_le h.1
    have hi : i < vs.length := by omega
    rw [Memory.read?_writeSeq m a vs hi, Nat.add_sub_cancel_left, List.getElem?_eq_getElem hi]
  · rw [Memory.read?_writeSeq_outside m vs (by omega)]

/-- What a run stored at once reads back as, through the read of several bytes. -/
theorem State.memRead_splice {s : State} {sp : Space} {m : List Host.Cell} {a : Nat} {bs : List Byte}
    (h : s.cells sp = Memory.splice m a bs) : s.memRead sp a bs.length = bs := by
  refine List.ext_getElem (by simp) fun i h1 h2 => ?_
  rw [State.memRead_getElem s sp h2, State.byteAt, h, Memory.read?_splice, if_pos (by omega), Nat.add_sub_cancel_left,
    List.getElem?_eq_getElem h2]
  rfl

end

end Sys2Proof.Machine
end

