-- ==== Sys2Proof/Tests/Slice0.lean ====
section
/-! SUPPORT. The model's own tests. Expected values come from spec/95_test_vectors.md and the tables of the section files;
each test names its row. Then a witness for the hypotheses of each obligation. -/

namespace Sys2Proof.Tests

open Sys2Proof Sys2Proof.Machine

/-! ## Small states -/

/-- Bytes as cells from offset 0 on. -/
def cellsOf (bs : List Byte) : List Host.Cell := Memory.writeSeq [] 0 bs

/-- Reset, then IN and NAME loaded. -/
def loaded (inp nm : List Byte) : State :=
  { State.reset with
    inMem := cellsOf inp, inLen := inp.length, nameMem := cellsOf nm, nameLen := nm.length }

/-- A scan of these bytes under way at its start. -/
def scanning (inp : List Byte) : State :=
  { loaded inp [] with status := { busy := true, done := false, warn := false, err := 0#3 } }

/-- The next state of an outcome. -/
def ran : Host.Outcome State Fault Refusal → State
  | .next s => s
  | .fault _ => State.reset
  | .refused _ => State.reset

/-- An outcome is a next state. -/
def isNext : Host.Outcome State Fault Refusal → Bool
  | .next _ => true
  | .fault _ => false
  | .refused _ => false

theorem eq_ran {o : Host.Outcome State Fault Refusal} (h : isNext o = true) : o = .next (ran o) := by
  cases o with
  | next s => rfl
  | fault e => cases h
  | refused e => cases h

/-- "TEST" -/
def testName : List Byte := [0x54#8, 0x45#8, 0x53#8, 0x54#8]

/-- The payload of the source's scenario S1. -/
def s1Payload : List Byte := [0x3E#8, 0x00#8, 0xC9#8, 0xFF#8]

/-- The header block of S1 (V-HDR row 1). -/
def s1Header : List Byte :=
  [0x13#8, 0x00#8, 0x00#8, 0x03#8, 0x54#8, 0x45#8, 0x53#8, 0x54#8, 0x20#8, 0x20#8, 0x20#8] ++
  [0x20#8, 0x20#8, 0x20#8, 0x04#8, 0x00#8, 0x00#8, 0x80#8, 0x00#8, 0x00#8, 0x91#8]

/-- The data block of S1 (V-DATA row 5). -/
def s1Data : List Byte := [0x06#8, 0x00#8, 0xFF#8, 0x3E#8, 0x00#8, 0xC9#8, 0xFF#8, 0xF7#8]

/-- A header-shaped block with a byte 0x80 in its filename. -/
def badHeader : List Byte :=
  [0x13#8, 0x00#8, 0x00#8, 0x03#8, 0x80#8, 0x45#8, 0x53#8, 0x54#8, 0x20#8, 0x20#8, 0x20#8] ++
  [0x20#8, 0x20#8, 0x20#8, 0x04#8, 0x00#8, 0x00#8, 0x80#8, 0x00#8, 0x00#8, 0x45#8]

/-! ## Well-formedness: an ill-formed term for each check -/

theorem test_data_length_too_small : Instr.wellFormed (.blkData 0x0001#16) = false := by decide
theorem test_other_length_too_small : Instr.wellFormed (.blkOther 0x0001#16 0x42#8) = false := by decide
theorem test_other_flag_of_data : Instr.wellFormed (.blkOther 0x0002#16 0xFF#8) = false := by decide
theorem test_other_header_shaped : Instr.wellFormed (.blkOther 0x0013#16 0x00#8) = false := by decide
theorem test_flag_zero_other_length : Instr.wellFormed (.blkOther 0x0014#16 0x00#8) = true := by decide

/-! ## Decoding: words written out from 30_encoding.md R84 and R80 -/

theorem test_decode_csum : decodeTableWord 8 0b001 = some .csum := by decide
theorem test_decode_encHdr : decodeTableWord 8 0b010 = some .encHdr := by decide
theorem test_decode_encData : decodeTableWord 8 0b011 = some .encData := by decide
theorem test_decode_encTap : decodeTableWord 8 0b100 = some .encTap := by decide
theorem test_decode_dec : decodeTableWord 8 0b101 = some .dec := by decide
/-- V-CMD row 4: 0x0D has low bits 0b101. -/
theorem test_decode_high_bits_ignored : decodeTableWord 8 0x0D = some .dec := by decide
theorem test_decode_reserved0 : decodeTableWord 8 0b000 = some .reserved0 := by decide
theorem test_decode_reserved6 : decodeTableWord 8 0b110 = some .reserved6 := by decide
theorem test_decode_reserved7 : decodeTableWord 8 0b111 = some .reserved7 := by decide
theorem test_decode_illegal0 : decodeTableWord 24 0xFF0000 = some (.blkIllegalLen0 0xFF#8) := by decide
theorem test_decode_illegal1 : decodeTableWord 24 0x000001 = some (.blkIllegalLen1 0x00#8) := by decide
theorem test_decode_hdr : decodeTableWord 24 0x000013 = some .blkHdr := by decide
theorem test_decode_data : decodeTableWord 24 0xFF0013 = some (.blkData 0x0013#16) := by decide
theorem test_decode_data_bytes :
    decode .framedBlock [0xFF#8, 0xFE#8, 0xFF#8, 0x01#8] = .ok (.blkData 0xFEFF#16, [0x01#8]) := by decide
theorem test_decode_other : decodeTableWord 24 0x000014 = some (.blkOther 0x0014#16 0x00#8) := by decide
theorem test_decode_no_flag : decode .framedBlock [0x13#8, 0x00#8] = .error (.noFlag 0x0013#16) := by decide
theorem test_encode_data : encode (.blkData 0x0100#16) = [0x00#8, 0x01#8, 0xFF#8] := by decide

/-! ## Memory, status and reset -/

theorem test_write_keeps_order :
    Memory.write (Memory.write [(3, 0x01#8)] 1 0x02#8) 3 0x04#8 = [(1, 0x02#8), (3, 0x04#8)] := by decide
theorem test_unsorted_is_not_canonical : Memory.wf [(3, 0x01#8), (1, 0x02#8)] = false := by decide
theorem test_reset_status : State.reset.status.toByte = 0x00#8 := by decide
theorem test_reset_address : State.reset.aAddr = 0x8000 := by decide
/-- 60_exceptions.md R181: code 5 with DONE is 0x52. -/
theorem test_status_illegal_command :
    Status.toByte { busy := false, done := true, warn := false, err := 5#3 } = 0x52#8 := by decide

/-! ## One step per instruction -/

/-- V-CSUM row 11. -/
theorem test_csum_s1 :
    (ran (exec .csum (loaded [0xFF#8, 0x3E#8, 0x00#8, 0xC9#8, 0xFF#8] []))).acc = 0xF7#8 := by decide
/-- V-CSUM row 14: residue 0. -/
theorem test_csum_residue : (ran (exec .csum (loaded (s1Header.drop 2) []))).acc = 0x00#8 := by decide

/-- V-HDR row 1. -/
theorem test_encHdr_s1 :
    (ran (exec .encHdr { loaded [] testName with aDlen := 4 })).outBytes = s1Header := by decide
/-- V-HDR row 14: a non-ASCII byte past the tenth. -/
theorem test_encHdr_whole_name_checked :
    (ran (exec .encHdr (loaded [] (List.replicate 10 0x41#8 ++ [0xFF#8])))).status.toByte = 0x12#8 := by decide

/-- V-DATA row 5. -/
theorem test_encData_s1 : (ran (exec .encData (loaded s1Payload []))).outBytes = s1Data := by decide
/-- V-DATA row 10: 65534 bytes. -/
theorem test_encData_too_long :
    (ran (exec .encData { State.reset with inLen := 65534 })).status.toByte = 0x42#8 := by decide

/-- V-TAP row 2: `A_DLEN` is ignored. -/
theorem test_encTap_s1 :
    (ran (exec .encTap { loaded s1Payload testName with aDlen := 0x7777 })).outBytes = s1Header ++ s1Data := by
  decide
/-- V-TAP row 8: EncodingError wins. -/
theorem test_encTap_name_first :
    (ran (exec .encTap { loaded [] [0x80#8] with inLen := 65534 })).status.toByte = 0x12#8 := by decide

/-- V-DEC row 27, its second half: `pay_off` 32 and 53. -/
theorem test_dec_twice :
    (ran (exec .dec (loaded (s1Header ++ s1Data ++ s1Header ++ s1Data) []))).records.map BlockRecord.payOff =
      [3, 24, 32, 53] := by decide
/-- V-DEC row 14: a stray byte discards the good block. -/
theorem test_dec_stray_byte :
    (ran (exec .dec (loaded [0x02#8, 0x00#8, 0xFF#8, 0xFF#8, 0x00#8] []))).status.toByte = 0x22#8 := by decide

/-- V-CMD rows 1, 2 and 3. -/
theorem test_reserved0 : (ran (exec .reserved0 State.reset)).status.toByte = 0x52#8 := by decide
theorem test_reserved6 :
    (ran (exec .reserved6 { State.reset with outLen := 29, acc := 0xF7#8 })).acc = 0x00#8 := by decide
theorem test_reserved7 : (ran (exec .reserved7 { State.reset with recCnt := 2 })).recCnt = 0 := by decide

/-- V-DEC rows 9 and 10. -/
theorem test_blkIllegalLen0 :
    (ran (exec (.blkIllegalLen0 0xAA#8) (scanning [0x00#8, 0x00#8, 0xAA#8]))).status.toByte = 0x32#8 := by
  decide
theorem test_blkIllegalLen1 :
    (ran (exec (.blkIllegalLen1 0xAA#8) (scanning [0x01#8, 0x00#8, 0xAA#8]))).status.toByte = 0x32#8 := by
  decide

/-- V-DEC row 26: `h_nlen` 4, `h_p1` 0x8000. -/
theorem test_blkHdr :
    ((ran (exec .blkHdr (scanning s1Header))).hNlen, (ran (exec .blkHdr (scanning s1Header))).hP1) =
      (4#4, 0x8000#16) := by decide
/-- V-DEC row 36: the warning. -/
theorem test_blkHdr_warns :
    ((ran (exec .blkHdr (scanning badHeader))).warnCnt, (ran (exec .blkHdr (scanning badHeader))).status.warn) =
      (1, true) := by decide

/-- V-DEC row 24. -/
theorem test_blkData :
    ((ran (exec (.blkData 0x0006#16) (scanning s1Data))).record? 0).map BlockRecord.payload = some s1Payload := by
  decide
/-- V-DEC row 13: no checksum byte. -/
theorem test_blkData_cut_short :
    (ran (exec (.blkData 0x0003#16) (scanning [0x03#8, 0x00#8, 0xFF#8, 0x10#8]))).status.toByte = 0x22#8 := by
  decide
/-- V-DEC row 22: a wrong checksum is stored as read. -/
theorem test_blkOther :
    ((ran (exec (.blkOther 0x0002#16 0x7F#8) (scanning [0x02#8, 0x00#8, 0x7F#8, 0x00#8]))).record? 0).map
      BlockRecord.checksum = some 0x00#8 := by decide

/-- A placed word runs as the very next step after reset. -/
theorem test_placed_command :
    (ran (step (State.reset.withFetchWord 8 0b111))).status.toByte = 0x52#8 := by decide
theorem test_placed_block :
    (ran (step (State.reset.withFetchWord 24 0xFF0006))).recCnt = 1 := by decide

/-! ## Witnesses: for each obligation with hypotheses, concrete states and operands that meet all of them together -/

theorem legal_default : Config.Params.default.Legal := by decide

theorem witness_DecodeOfEncodeIsIdentity :
    (Instr.blkData 0x0002#16).wellFormed = true ∧ (Instr.blkData 0xFFFF#16).wellFormed = true ∧
    (Instr.blkOther 0x0013#16 0x01#8).wellFormed = true ∧ (Instr.blkOther 0x0002#16 0x00#8).wellFormed = true := by
  decide

theorem witness_DecodedInstructionIsWellFormed :
    decode .framedBlock [0x13#8, 0x00#8, 0x00#8, 0x07#8] = .ok (.blkHdr, [0x07#8]) ∧
    decode .cmd3 [0xFF#8] = .ok (.reserved7, []) := by decide

theorem witness_XorFoldLaws : [0x01#8, 0x02#8].Perm [0x02#8, 0x01#8] ∧
    ([0x20#8, 0x01#8, 0x20#8] : List Byte).count 0x20#8 % 2 = 0 := by
  exact ⟨List.Perm.swap _ _ _, by decide⟩

theorem witness_ResidueIsZeroExactlyWhenWellFormed :
    (loaded (s1Data.drop 2) []).inLen ≤ (loaded (s1Data.drop 2) []).params.inMax ∧
    (loaded (s1Data.drop 2) []).inBytes = [0xFF#8] ++ s1Payload ++ [0xF7#8] ∧
    (∃ t, exec .encHdr (loaded [] testName) = .next t ∧ t.status = .success) ∧
    (∃ t, exec .encData (loaded s1Payload []) = .next t ∧ t.status = .success) ∧
    (∃ t, exec .encTap (loaded s1Payload testName) = .next t ∧ t.status = .success) := by
  exact ⟨by decide, by decide, ⟨_, eq_ran (by decide), by decide⟩, ⟨_, eq_ran (by decide), by decide⟩,
    ⟨_, eq_ran (by decide), by decide⟩⟩

/-- At the capacity itself. -/
theorem witness_CsumFoldsTheInput :
    ({ loaded [0x5A#8] [] with params := { Config.Params.default with inMax := 1 } } : State).inLen ≤ 1 := by decide

theorem witness_EncHdrEmitsTheHeaderBlock :
    (loaded [] [0x7F#8]).params.Legal ∧ (loaded [] [0x7F#8]).nameLen ≤ (loaded [] [0x7F#8]).params.nameMax ∧
    21 ≤ (loaded [] [0x7F#8]).params.outMax ∧
    ∀ i < (loaded [] [0x7F#8]).nameLen, ((loaded [] [0x7F#8]).byteAt .name i).toNat < 0x80 := by
  exact ⟨legal_default, by decide, by decide, by decide⟩

theorem witness_EncHdrRejectsNonAsciiNames :
    (loaded [] [0x54#8, 0x80#8]).nameLen ≤ (loaded [] [0x54#8, 0x80#8]).params.nameMax ∧
    ∃ i < (loaded [] [0x54#8, 0x80#8]).nameLen, 0x80 ≤ ((loaded [] [0x54#8, 0x80#8]).byteAt .name i).toNat := by
  exact ⟨by decide, 1, by decide, by decide⟩

/-- Names that differ past the tenth byte, a length of 65536 against 0. -/
theorem witness_EncHdrSeesTenNameBytesAndLowHalves :
    ∃ s u t v : State, s.params.Legal ∧ u.params.Legal ∧ s.nameBytes.take 10 = u.nameBytes.take 10 ∧
      s.nameBytes ≠ u.nameBytes ∧ s.aDlen ≠ u.aDlen ∧
      s.aDlen % 65536 = u.aDlen % 65536 ∧ s.aAddr % 65536 = u.aAddr % 65536 ∧
      exec .encHdr s = .next t ∧ exec .encHdr u = .next v ∧ t.status = .success ∧ v.status = .success := by
  refine ⟨{ loaded [] (List.replicate 10 0x41#8 ++ [0x42#8]) with aDlen := 65536 },
    loaded [] (List.replicate 10 0x41#8), _, _, legal_default, legal_default, by decide, by decide, by decide,
    by decide, by decide, eq_ran (by decide), eq_ran (by decide), by decide, by decide⟩

theorem witness_EncDataEmitsTheDataBlock :
    ∃ s : State, s.params.Legal ∧ s.inLen ≤ s.params.inMax ∧ s.inLen = 65533 ∧ s.inLen + 4 ≤ s.params.outMax :=
  ⟨{ State.reset with inLen := 65533 }, legal_default, by decide, rfl, by decide⟩

theorem witness_EncDataRejectsOversizedPayloads :
    ∃ s : State, s.inLen ≤ s.params.inMax ∧ s.inLen = 65534 := ⟨{ State.reset with inLen := 65534 }, by decide, rfl⟩

theorem witness_EncTapIsHeaderThenData :
    ∃ s : State, s.params.Legal ∧ s.inLen ≤ s.params.inMax ∧ s.nameLen ≤ s.params.nameMax ∧ s.nameLen = 1 ∧
      (∀ i < s.nameLen, (s.byteAt .name i).toNat < 0x80) ∧ s.inLen = 65533 ∧ s.inLen + 25 ≤ s.params.outMax :=
  ⟨{ loaded [] [0x7F#8] with inLen := 65533 }, legal_default, by decide, by decide, rfl, by decide, rfl, by decide⟩

/-- Clause by clause: a bad name beside an oversized payload; a good name beside a payload of 65534 bytes. -/
theorem witness_EncTapChecksNameThenSize :
    (∃ s : State, s.inLen ≤ s.params.inMax ∧ s.nameLen ≤ s.params.nameMax ∧ 65534 ≤ s.inLen ∧
      ∃ i < s.nameLen, 0x80 ≤ (s.byteAt .name i).toNat) ∧
    (∃ s : State, s.inLen ≤ s.params.inMax ∧ s.nameLen ≤ s.params.nameMax ∧
      (∀ i < s.nameLen, (s.byteAt .name i).toNat < 0x80) ∧ s.inLen = 65534) :=
  ⟨⟨{ loaded [] [0x80#8] with inLen := 65534 }, by decide, by decide, by decide, 0, by decide, by decide⟩,
    ⟨{ loaded [] [0x7F#8] with inLen := 65534 }, by decide, by decide, by decide, rfl⟩⟩

/-- The frames of `badHeader ++ s1Data`, in a REC of exactly two records. -/
def twoFrames : List Frame :=
  [⟨0x00#8, (badHeader.drop 3).take 17, 0x45#8⟩, ⟨0xFF#8, s1Payload, 0xF7#8⟩]

def twoBlocks : State :=
  { loaded (badHeader ++ s1Data) [] with params := { Config.Params.default with recMax := some 2 } }

theorem witness_DecRecordsEveryFrame :
    twoBlocks.params.Legal ∧ twoBlocks.inLen < 2 ^ twoBlocks.params.argw ∧ twoBlocks.inLen ≤ twoBlocks.params.inMax ∧
    (∀ f ∈ twoFrames, f.payload.length ≤ 65533) ∧ twoBlocks.inBytes = twoFrames.flatMap Frame.bytes ∧
    (∀ m, twoBlocks.params.recMax = some m → twoFrames.length ≤ m) := by
  refine ⟨by decide, by decide, by decide, by decide, by decide, ?_⟩
  intro m hm
  cases hm
  decide

/-- Two records, so that every clause speaks of one. -/
theorem witness_DecSuccessTilesTheStream :
    ∃ s t : State, s.params.Legal ∧ s.inLen < 2 ^ s.params.argw ∧ exec .dec s = .next t ∧ t.status.err = 0#3 ∧
      t.recCnt = 2 :=
  ⟨twoBlocks, _, by decide, by decide, eq_ran (by decide), by decide, by decide⟩

theorem witness_DecAlwaysEnds :
    ∃ s : State, s.params.Legal ∧ s.inLen < 2 ^ s.params.argw ∧ s.inLen ≤ s.params.inMax ∧
      s.params.recMax = some 2 ∧ (∀ m, s.params.recMax = some m → s.inLen / 4 ≤ m) := by
  refine ⟨{ loaded s1Data [] with params := { Config.Params.default with recMax := some 2 } }, by decide, by decide,
    by decide, rfl, ?_⟩
  intro m hm
  cases hm
  decide

/-- A scan under way at its start meets the invariant. -/
theorem scanning_inv {bs : List Byte} (h : bs.length < 2 ^ 32 - 1) (hw : Memory.wf (cellsOf bs) = true) :
    (scanning bs).Inv where
  legal := legal_default
  widths := show 0 < 2 ^ 32 ∧ 0x8000 < 2 ^ 32 ∧ bs.length < 2 ^ 32 ∧ 0 < 2 ^ 32 ∧ 0 < 2 ^ 32 ∧ 0 < 2 ^ 32 ∧
      0 < 2 ^ 32 ∧ 0 < 2 ^ 32 from
    ⟨by decide, by decide, Nat.lt_of_lt_of_le h (by decide), by decide, by decide, by decide, by decide, by decide⟩
  memWf := ⟨hw, rfl, rfl, rfl⟩
  errCode := show 0 ≤ 5 from by decide
  errClear := fun h => absurd rfl h
  warnIff := ⟨fun h => (by cases h), fun h => absurd h (Nat.lt_irrefl 0)⟩
  warnCount := rfl
  recValid := fun i hi => absurd hi (Nat.not_lt_zero i)
  outValid := fun i hi => absurd hi (Nat.not_lt_zero i)
  nlenTen := show 0 ≤ 10 from by decide
  scanning := fun _ => ⟨rfl, rfl, rfl, rfl, Nat.zero_le _, Nat.le_of_lt h, Nat.zero_le _⟩
  movedOk := ⟨rfl, fun _ => rfl⟩

/-- The invariant says nothing of the host's pending actions. -/
theorem inv_withHost {s : State} (h : s.Inv) (l : List HostAction) : ({ s with host := l } : State).Inv :=
  ⟨h.legal, h.widths, h.memWf, h.errCode, h.errClear, h.warnIff, h.warnCount, h.recValid, h.outValid, h.nlenTen,
    h.scanning, h.movedOk⟩

/-- The hypotheses of `ScanStepByBytesRemaining`, with what its clauses ask: the bytes remaining and the length field. -/
def ScanWitness (s : State) (r l : Nat) : Prop :=
  s.Inv ∧ s.status.busy = true ∧ s.host = [] ∧ s.recFull = false ∧ s.inLen - s.cur = r ∧
    (2 ≤ r → (u16le (s.byteAt .inp s.cur) (s.byteAt .inp (s.cur + 1))).toNat = l)

theorem scanWitness (bs : List Byte) (l : Nat) (h : bs.length < 2 ^ 32 - 1) (hw : Memory.wf (cellsOf bs) = true)
    (hl : 2 ≤ bs.length →
      (u16le ((scanning bs).byteAt .inp 0) ((scanning bs).byteAt .inp 1)).toNat = l) :
    ScanWitness (scanning bs) bs.length l :=
  ⟨scanning_inv h hw, rfl, rfl, rfl, rfl, hl⟩

/-- Nothing left; one byte; two bytes; lengths 0 and 1; a block one byte short; a block that fits exactly. -/
theorem witness_ScanStepByBytesRemaining :
    ScanWitness (scanning []) 0 0 ∧ ScanWitness (scanning [0x13#8]) 1 0 ∧
    ScanWitness (scanning [0x13#8, 0x00#8]) 2 19 ∧ ScanWitness (scanning [0x00#8, 0x00#8, 0xAA#8]) 3 0 ∧
    ScanWitness (scanning [0x01#8, 0x00#8, 0xAA#8]) 3 1 ∧ ScanWitness (scanning [0x02#8, 0x00#8, 0x55#8]) 3 2 ∧
    ScanWitness (scanning [0x02#8, 0x00#8, 0x55#8, 0x55#8]) 4 2 :=
  ⟨scanWitness [] 0 (by decide) (by decide) (by decide), scanWitness [0x13#8] 0 (by decide) (by decide) (by decide),
    scanWitness [0x13#8, 0x00#8] 19 (by decide) (by decide) (by decide),
    scanWitness [0x00#8, 0x00#8, 0xAA#8] 0 (by decide) (by decide) (by decide),
    scanWitness [0x01#8, 0x00#8, 0xAA#8] 1 (by decide) (by decide) (by decide),
    scanWitness [0x02#8, 0x00#8, 0x55#8] 2 (by decide) (by decide) (by decide),
    scanWitness [0x02#8, 0x00#8, 0x55#8, 0x55#8] 2 (by decide) (by decide) (by decide)⟩

theorem witness_AtomicDecIsTheWalkOfItsBlocks :
    twoBlocks.params.Legal ∧ twoBlocks.inLen < 2 ^ twoBlocks.params.argw ∧
    twoBlocks.inLen ≤ twoBlocks.params.inMax ∧ twoBlocks.host = [] ∧ twoBlocks.moved = [] := by decide

theorem witness_DecOfConcatenationIsConcatenation :
    ∃ s u w t v : State, s.params = w.params ∧ u.params = w.params ∧ w.params.Legal ∧
      w.inLen < 2 ^ w.params.argw ∧ w.inLen ≤ w.params.inMax ∧ w.inBytes = s.inBytes ++ u.inBytes ∧
      w.params.recMax = some 2 ∧ (∀ m, w.params.recMax = some m → t.recCnt + v.recCnt ≤ m) ∧
      exec .dec s = .next t ∧ t.status.err = 0#3 ∧ exec .dec u = .next v ∧ v.status.err = 0#3 := by
  refine ⟨{ loaded badHeader [] with params := twoBlocks.params }, { loaded s1Data [] with params := twoBlocks.params },
    twoBlocks, _, _, rfl, rfl, by decide, by decide, by decide, by decide, rfl, ?_, eq_ran (by decide), by decide,
    eq_ran (by decide), by decide⟩
  intro m hm
  cases hm
  decide

theorem witness_DecodeOfEncodeTapRoundTrip :
    ∃ s t u : State, s.params.Legal ∧ s.nameLen ≤ s.params.nameMax ∧ s.inLen ≤ s.params.inMax ∧ s.nameLen = 4 ∧
      (∀ i < s.nameLen, (s.byteAt .name i).toNat < 0x80) ∧ s.inLen ≤ 65533 ∧ s.inLen + 25 ≤ s.params.outMax ∧
      exec .encTap s = .next t ∧ u.params = s.params ∧ u.inBytes = t.outBytes ∧ u.inLen ≤ u.params.inMax ∧
      (∀ m, u.params.recMax = some m → 2 ≤ m) := by
  refine ⟨loaded s1Payload testName, _, loaded (s1Header ++ s1Data) [], legal_default, by decide, by decide, rfl,
    by decide, by decide, by decide, eq_ran (by decide), rfl, by decide, by decide, ?_⟩
  intro m hm
  cases hm

theorem witness_EncHdrOutputProperties :
    ∃ s t u : State, s.params.Legal ∧ exec .encHdr s = .next t ∧ t.status = .success ∧ u.params = s.params ∧
      u.inBytes = t.outBytes ∧ u.inLen ≤ u.params.inMax ∧ (∀ m, u.params.recMax = some m → 1 ≤ m) := by
  refine ⟨{ loaded [] testName with aDlen := 4 }, _, loaded s1Header [], legal_default, eq_ran (by decide), by decide,
    rfl, by decide, by decide, ?_⟩
  intro m hm
  cases hm

theorem witness_EncDataOutputProperties :
    ∃ s t u : State, s.params.Legal ∧ exec .encData s = .next t ∧ t.status = .success ∧ u.params = s.params ∧
      u.inBytes = t.outBytes ∧ u.inLen ≤ u.params.inMax ∧ (∀ m, u.params.recMax = some m → 1 ≤ m) := by
  refine ⟨loaded s1Payload [], _, loaded s1Data [], legal_default, eq_ran (by decide), by decide, rfl, by decide,
    by decide, ?_⟩
  intro m hm
  cases hm

/-- A payload that unpacks, with a name of four bytes, and one that does not. -/
theorem witness_UnpackReadsTheFields :
    ((s1Header.drop 3).take 17).length = 17 ∧
    (∃ h, unpack ((s1Header.drop 3).take 17) = some h ∧ h.hNlen.toNat ≠ 0) ∧
    ((badHeader.drop 3).take 17).length = 17 ∧ unpack ((badHeader.drop 3).take 17) = none :=
  ⟨by decide, ⟨_, rfl, by decide⟩, by decide, by decide⟩

/-- A header block that ends with IN: one that unpacks and one that does not. -/
theorem witness_BlkHdrRecordsAndUnpacks :
    ((scanning s1Header).inLen < 2 ^ 32 ∧ (scanning s1Header).cur + 21 = (scanning s1Header).inLen ∧
      (scanning s1Header).recFull = false ∧ (scanning s1Header).recCnt + 1 < 2 ^ 32 ∧
      (scanning s1Header).warnCnt + 1 < 2 ^ 32 ∧ unpack ((scanning s1Header).memRead .inp 3 17) ≠ none) ∧
    ((scanning badHeader).inLen < 2 ^ 32 ∧ (scanning badHeader).cur + 21 = (scanning badHeader).inLen ∧
      (scanning badHeader).recFull = false ∧ unpack ((scanning badHeader).memRead .inp 3 17) = none) := by decide

/-- The shortest block, ending with IN. -/
theorem witness_BlkDataAndOtherRecordTheBlock :
    ∃ s : State, (Instr.blkData 0x0002#16).wellFormed = true ∧ (Instr.blkOther 0x0002#16 0x55#8).wellFormed = true ∧
      s.inLen < 2 ^ s.params.argw ∧ s.cur + 2 + (0x0002#16).toNat = s.inLen ∧ s.recFull = false ∧
      s.recCnt + 1 < 2 ^ s.params.argw :=
  ⟨scanning [0x02#8, 0x00#8, 0x55#8, 0x55#8], by decide, by decide, by decide, by decide, by decide, by decide⟩

theorem witness_IllegalLengthsRaiseMalformedBlock :
    (scanning [0x01#8, 0x00#8, 0xAA#8]).inLen < 2 ^ (scanning [0x01#8, 0x00#8, 0xAA#8]).params.argw ∧
    (scanning [0x01#8, 0x00#8, 0xAA#8]).cur + 3 = (scanning [0x01#8, 0x00#8, 0xAA#8]).inLen := by decide

/-- The first disjunct with two bytes left, the second one byte short. -/
theorem witness_BlocksCutShortRaiseStreamTruncated :
    (scanning [0x13#8, 0x00#8]).inLen + 1 = (scanning [0x13#8, 0x00#8]).cur + 3 ∧
    (Instr.blkData 0x0002#16).wellFormed = true ∧ (Instr.blkData 0x0002#16).format = .framedBlock ∧
    (scanning [0x02#8, 0x00#8, 0xFF#8]).inLen < 2 ^ (scanning [0x02#8, 0x00#8, 0xFF#8]).params.argw ∧
    (scanning [0x02#8, 0x00#8, 0xFF#8]).inLen + 1 = (scanning [0x02#8, 0x00#8, 0xFF#8]).cur + 2 + (0x0002#16).toNat := by
  decide

theorem witness_CursorOnlyMovesForward :
    ∃ (s t : State) (i : Instr), i.format = .framedBlock ∧ s.inLen < 2 ^ s.params.argw ∧ s.cur ≤ s.inLen ∧
      exec i s = .next t :=
  ⟨scanning s1Data, _, .blkData 0x0006#16, rfl, by decide, by decide, eq_ran (by decide)⟩

theorem witness_ReservedCodesRaiseIllegalCommand :
    ∃ c d e : BitVec 3, (c = 0b000#3 ∧ d = 0b110#3 ∧ e = 0b111#3) ∧ decodeCode c = .reserved0 ∧
      decodeCode d = .reserved6 ∧ decodeCode e = .reserved7 :=
  ⟨0b000#3, 0b110#3, 0b111#3, ⟨rfl, rfl, rfl⟩, rfl, rfl, rfl⟩

/-- A command that faults whatever `ERR` was, and a block that faults. -/
theorem witness_FaultsLeaveOnlyTheStatus :
    (∃ s t : State, Instr.reserved6.format = .cmd3 ∧ exec .reserved6 s = .next t ∧ t.status.err ≠ 0#3) ∧
    (∃ s t : State, s.status.err = 0#3 ∧ exec (.blkIllegalLen0 0xAA#8) s = .next t ∧ t.status.err ≠ 0#3) :=
  ⟨⟨State.reset, _, rfl, eq_ran (by decide), by decide⟩,
    ⟨scanning [0x00#8, 0x00#8, 0xAA#8], _, rfl, eq_ran (by decide), by decide⟩⟩

theorem witness_CommandsEndIdleAndDone :
    ∃ s t : State, Instr.encTap.format = .cmd3 ∧ s.params.Legal ∧ s.inLen < 2 ^ s.params.argw ∧
      exec .encTap s = .next t ∧ s.inLen ≤ s.params.inMax ∧ s.nameLen ≤ s.params.nameMax ∧ 21 ≤ s.params.outMax ∧
      (s.inLen ≤ 65533 → s.inLen + 25 ≤ s.params.outMax) ∧
      (∀ m, s.params.recMax = some m → s.inLen / 4 ≤ m) := by
  refine ⟨loaded s1Payload testName, _, rfl, legal_default, by decide, eq_ran (by decide), by decide, by decide,
    by decide, by decide, ?_⟩
  intro m hm
  cases hm

/-- An instruction of every kind has a next state: the hypotheses of the statements about results and frames. -/
theorem witness_ResultsOfTheOtherKindAreCleared :
    (∃ t, exec .csum (loaded s1Payload []) = .next t) ∧ (∃ t, exec .dec (loaded s1Data []) = .next t) ∧
    (∃ t, exec .encHdr (loaded [] testName) = .next t) ∧ (∃ t, exec .reserved7 State.reset = .next t) :=
  ⟨⟨_, eq_ran (by decide)⟩, ⟨_, eq_ran (by decide)⟩, ⟨_, eq_ran (by decide)⟩, ⟨_, eq_ran (by decide)⟩⟩

/-- Each refusal, one past the capacity. -/
theorem witness_RefusedOnlyBeyondACapacity :
    exec .csum { State.reset with inLen := 2 ^ 32 } = .refused .inputBeyondCapacity ∧
    exec .encHdr { State.reset with nameLen := 2 ^ 32 } = .refused .nameBeyondCapacity ∧
    exec .encHdr { State.reset with params := { Config.Params.default with outMax := 20 } } =
      .refused .outputBeyondCapacity ∧
    exec (.blkData 0x0006#16)
      { scanning s1Data with params := { Config.Params.default with recMax := some 0 } } =
      .refused .recordsBeyondCapacity ∧
    exec .dec { loaded s1Data [] with params := { Config.Params.default with recMax := some 0 } } =
      .refused .recordsBeyondCapacity := ⟨rfl, rfl, rfl, rfl, rfl⟩

/-- The hypotheses of `CommandsBeyondACapacityAreRefused`, clause by clause, each one past the capacity. -/
theorem witness_CommandsBeyondACapacityAreRefused :
    (∃ s : State, s.params.inMax + 1 = s.inLen) ∧
    (∃ s : State, s.params.nameMax + 1 = s.nameLen ∧ s.inLen ≤ s.params.inMax) ∧
    (∃ s : State, s.nameLen ≤ s.params.nameMax ∧ (∀ i < s.nameLen, (s.byteAt .name i).toNat < 0x80) ∧
      s.params.outMax < 21 ∧ s.inLen ≤ s.params.inMax ∧ s.inLen ≤ 65533 ∧ s.params.outMax < s.inLen + 25) ∧
    (∃ s : State, s.inLen ≤ s.params.inMax ∧ s.inLen ≤ 65533 ∧ s.params.outMax + 1 = s.inLen + 4) ∧
    (∃ s : State, s.params.recMax = some 1 ∧ s.inLen ≤ s.params.inMax ∧ s.inLen < 2 ^ s.params.argw ∧
      (∀ f ∈ twoFrames, f.payload.length ≤ 65533) ∧ s.inBytes = twoFrames.flatMap Frame.bytes ++ [] ∧
      1 < twoFrames.length) ∧
    (∃ s : State, s.params.recMax = some 0 ∧ 0 ≤ s.recCnt ∧ s.inLen < 2 ^ s.params.argw ∧
      (Instr.blkData 0x0006#16).wellFormed = true ∧ s.cur + 2 + (0x0006#16).toNat ≤ s.inLen) :=
  ⟨⟨{ State.reset with inLen := 2 ^ 32 }, rfl⟩, ⟨{ State.reset with nameLen := 2 ^ 32 }, rfl, by decide⟩,
    ⟨{ loaded [] testName with params := { Config.Params.default with outMax := 20 } }, by decide, by decide, by decide,
      by decide, by decide, by decide⟩,
    ⟨{ State.reset with params := { Config.Params.default with outMax := 3 } }, by decide, by decide, rfl⟩,
    ⟨{ twoBlocks with params := { Config.Params.default with recMax := some 1 } }, rfl, by decide, by decide, by decide,
      by decide, by decide⟩,
    ⟨{ scanning s1Data with params := { Config.Params.default with recMax := some 0 } }, rfl, by decide, by decide,
      by decide, by decide⟩⟩

theorem witness_OperandsAndInputsAreKept : ∃ s t : State, s.inLen = 4 ∧ exec .encTap s = .next t :=
  ⟨loaded s1Payload testName, _, rfl, eq_ran (by decide)⟩

theorem witness_OnlyEncodersWriteOut :
    (∃ s t : State, s.params.Legal ∧ exec .csum s = .next t) ∧
    (∃ s t : State, s.params.Legal ∧ exec .encTap s = .next t ∧ t.outLen = 29) :=
  ⟨⟨loaded s1Payload [], _, legal_default, eq_ran (by decide)⟩,
    ⟨loaded s1Payload testName, _, legal_default, eq_ran (by decide), by decide⟩⟩

theorem witness_OnlyDecodingWritesRecords :
    ∃ s t u v : State, s.params.Legal ∧ s.inLen < 2 ^ s.params.argw ∧ exec .csum s = .next t ∧
      exec .dec s = .next u ∧ exec (.blkData 0x0006#16) s = .next v :=
  ⟨loaded s1Data [], _, _, _, legal_default, by decide, eq_ran (by decide), eq_ran (by decide), eq_ran (by decide)⟩

theorem witness_UnusedInternalRegistersAreKept :
    ∃ s t u : State, s.params.Legal ∧ exec .csum s = .next t ∧ exec (.blkData 0x0006#16) s = .next u :=
  ⟨loaded s1Data [], _, _, legal_default, eq_ran (by decide), eq_ran (by decide)⟩

theorem witness_BlocksAndHostSideFrame :
    ∃ s t : State, (Instr.blkData 0x0006#16).format = .framedBlock ∧ exec (.blkData 0x0006#16) s = .next t ∧
      s.status.busy = true ∧ t.status.busy = true :=
  ⟨scanning s1Data, _, rfl, eq_ran (by decide), rfl, by decide⟩

/-- V-CMD row 4: 0x0D is `DEC`. -/
theorem witness_StepRunsTheCommandWritten :
    ∃ (s : State) (v : Nat) (rest : List HostAction) (b : Byte) (i : Instr), s.host = .writeReg 0 v :: rest ∧
      s.status.busy = false ∧ b = BitVec.ofNat 8 v ∧ decode .cmd3 [b] = .ok (i, []) ∧ i = .dec :=
  ⟨{ State.reset with host := [.writeReg 0 0x0D] }, 0x0D, [], 0x0D#8, .dec, rfl, rfl, rfl, rfl, rfl⟩

theorem witness_StepRunsTheBlockAtTheCursor :
    (scanning s1Header).host = [] ∧ (scanning s1Header).status.busy = true ∧
    (scanning s1Header).cur < (scanning s1Header).inLen ∧
    (scanning s1Header).inLen - (scanning s1Header).cur = 21 ∧ (scanning s1Header).moved = [] ∧
    decode .framedBlock ((scanning s1Header).scanned.memRead .inp 0 21) = .ok (.blkHdr, s1Header.drop 3) := by decide

/-- Both formats, and the longest block. -/
theorem witness_PlacedWordRunsNext :
    State.reset.params.Legal ∧ State.reset.cur + 65537 < 2 ^ State.reset.params.argw ∧
    decodeTableWord 8 0b111 = some .reserved7 ∧ decodeTableWord 24 0xFFFFFF = some (.blkData 0xFFFF#16) := by decide

theorem witness_WritesWhileBusyAreIgnored :
    ∃ (s : State) (idx v : Nat) (rest : List HostAction), s.host = .writeReg idx v :: rest ∧ s.status.busy = true :=
  ⟨{ scanning s1Data with host := [.writeReg 3 1] }, 3, 1, [], rfl, rfl⟩

/-- A writable register read back, and an index that does not exist. -/
theorem witness_RegisterMapReadsAndWrites :
    (∃ s : State, s.status.busy = false ∧ 2 ≠ 0 ∧ s.host = [.writeReg 2 (2 ^ 32 + 5), .readReg 2]) ∧
    (∃ s : State, s.status.busy = false ∧ 10 ≠ 0 ∧ s.host = [.writeReg 10 7, .readReg 10]) :=
  ⟨⟨{ State.reset with host := [.writeReg 2 (2 ^ 32 + 5), .readReg 2] }, rfl, by decide, rfl⟩,
    ⟨{ State.reset with host := [.writeReg 10 7, .readReg 10] }, rfl, by decide, rfl⟩⟩

/-- `STATUS`, an operand register, the two kinds of result register, `CMD` and an index that does not exist, under a scan. -/
theorem witness_RegisterReadsWhileBusy :
    ∀ j ∈ [0, 1, 5, 6, 8, 9, 10], ∃ s : State, s.status.busy = true ∧ s.host = [.readReg j] :=
  fun j _ => ⟨{ scanning s1Data with host := [.readReg j] }, rfl, rfl⟩

/-- R218: `STATUS` reads 0x01 while a scan is under way. -/
theorem test_status_while_busy :
    (ran (step { scanning s1Data with host := [.readReg 1] })).reply = some (.word 1) := by decide

theorem witness_ResetFromAnyState : ∃ (s : State) (rest : List HostAction), s.host = .reset :: rest ∧ s.status.busy = true :=
  ⟨{ scanning s1Data with host := [.reset] }, [], rfl, rfl⟩

theorem witness_HostCannotWriteResults :
    ∃ (s t : State) (a : HostAction) (rest : List HostAction), s.host = a :: rest ∧ a ≠ .reset ∧
      (∀ v, a ≠ .writeReg 0 v) ∧ step s = .next t :=
  ⟨{ loaded s1Data [] with host := [.writeReg 6 1] }, _, .writeReg 6 1, [], rfl, by decide, by simp,
    eq_ran (by decide)⟩

/-- Clause by clause: a write of IN and its read-back, a write and a read elsewhere, the same of NAME, the last valid byte
of OUT, the last valid record. The first writes are at the last offset of the space. -/
theorem witness_HostReadsBackWhatItWrote :
    (∃ s : State, 2 ^ 32 - 2 < s.params.inMax ∧
      s.host = [.writeIn (2 ^ 32 - 2) 0x55#8, .readByte .inp (2 ^ 32 - 2)]) ∧
    (∃ s : State, 1 ≠ 0 ∧ 0 < s.params.inMax ∧ 1 < s.params.inMax ∧ s.host = [.writeIn 0 0x55#8, .readByte .inp 1]) ∧
    (∃ s : State, 2 ^ 32 - 2 < s.params.nameMax ∧
      s.host = [.writeName (2 ^ 32 - 2) 0x55#8, .readByte .name (2 ^ 32 - 2)]) ∧
    (∃ s : State, 1 ≠ 0 ∧ 0 < s.params.nameMax ∧ 1 < s.params.nameMax ∧
      s.host = [.writeName 0 0x55#8, .readByte .name 1]) ∧
    (∃ s : State, s.status.busy = false ∧ 0 + 1 = s.outLen ∧ s.host = [.readByte .out 0]) ∧
    (∃ (s : State) (r : BlockRecord), s.status.busy = false ∧ 1 + 1 = s.recCnt ∧ s.record? 1 = some r ∧
      s.host = [.readRec 1]) :=
  ⟨⟨{ State.reset with host := [.writeIn (2 ^ 32 - 2) 0x55#8, .readByte .inp (2 ^ 32 - 2)] }, by decide, rfl⟩,
    ⟨{ State.reset with host := [.writeIn 0 0x55#8, .readByte .inp 1] }, by decide, by decide, by decide, rfl⟩,
    ⟨{ State.reset with host := [.writeName (2 ^ 32 - 2) 0x55#8, .readByte .name (2 ^ 32 - 2)] }, by decide, rfl⟩,
    ⟨{ State.reset with host := [.writeName 0 0x55#8, .readByte .name 1] }, by decide, by decide, by decide, rfl⟩,
    ⟨{ State.reset with host := [.readByte .out 0], outMem := [(0, 0x55#8)], outLen := 1 }, rfl, rfl, rfl⟩,
    ⟨{ ran (exec .dec twoBlocks) with host := [.readRec 1] }, ((twoFrames.getD 1 ⟨0#8, [], 0#8⟩).record 21), by decide,
      by decide, by decide, rfl⟩⟩

theorem witness_HostReadsChangeNothing :
    (∃ (s : State) (x : HostAction), s.host = [x] ∧ ∃ j, x = .readReg j) ∧
    (∃ (s : State) (x : HostAction), s.host = [x] ∧ ∃ i, x = .readRec i) ∧
    (∃ (s : State) (x : HostAction), s.host = [x] ∧ x = .readByte .inp (2 ^ 32 - 2) ∧ 2 ^ 32 - 2 < s.params.inMax) :=
  ⟨⟨{ State.reset with host := [.readReg 1] }, _, rfl, 1, rfl⟩, ⟨{ State.reset with host := [.readRec 0] }, _, rfl, 0, rfl⟩,
    ⟨{ State.reset with host := [.readByte .inp (2 ^ 32 - 2)] }, _, rfl, rfl, by decide⟩⟩

/-- Both clauses, with as many bytes as the spaces hold. -/
theorem witness_LoadScriptsPlaceTheirBytes :
    (∃ s : State, s.params.Legal ∧ s.status.busy = false ∧ s1Payload.length = s.params.inMax ∧
      s.host = Script.loadIn s1Payload ++ []) ∧
    (∃ s : State, s.params.Legal ∧ s.status.busy = false ∧ testName.length = s.params.nameMax ∧
      s.host = Script.loadName testName ++ []) :=
  ⟨⟨{ State.reset with
      params := { Config.Params.default with inMax := 4 }, host := Script.loadIn s1Payload ++ [] },
      by decide, rfl, rfl, rfl⟩,
    ⟨{ State.reset with
      params := { Config.Params.default with nameMax := 4 }, host := Script.loadName testName ++ [] },
      by decide, rfl, rfl, rfl⟩⟩

/-- An idle state. -/
theorem idle_inv : ({ State.reset with aDlen := 7, inLen := 3, acc := 0xF7#8 } : State).Inv where
  legal := legal_default
  widths := by decide
  memWf := by decide
  errCode := by decide
  errClear := fun h => absurd rfl h
  warnIff := by decide
  warnCount := rfl
  recValid := fun i hi => absurd hi (Nat.not_lt_zero i)
  outValid := fun i hi => absurd hi (Nat.not_lt_zero i)
  nlenTen := by decide
  scanning := fun h => by cases h
  movedOk := by decide

/-- A scan, and a host about to write a byte of the payload under it. -/
def scanMoving (x : HostAction) : State := { scanning s1Data with host := [x] }

theorem scanMoving_inv (x : HostAction) : (scanMoving x).Inv := inv_withHost (scanning_inv (by decide) (by decide)) [x]

/-- A scan in which the host has moved a byte of the payload. -/
def scanMoved : State := { scanning s1Data with moved := [(3, 0x77#8)] }

theorem scanMoved_inv : scanMoved.Inv :=
  have h := scanning_inv (bs := s1Data) (by decide) (by decide)
  ⟨h.legal, h.widths, h.memWf, h.errCode, h.errClear, h.warnIff, h.warnCount, h.recValid, h.outValid, h.nlenTen,
    h.scanning, rfl, fun hb => by cases hb⟩

/-- R217: the write goes through while `BUSY` is 1, the host has its byte in IN, and the scan goes on. -/
theorem test_write_while_busy :
    (ran (step (scanMoving (.writeIn 3 0x77#8)))).byteAt .inp 3 = 0x77#8 ∧
    (ran (step (scanMoving (.writeIn 3 0x77#8)))).status.busy = true := by decide

/-- U11: the record made after it has a free value in the place of that byte, and the bytes that stood still beside it. -/
theorem test_moved_byte_is_free :
    ((ran (step (ran (step (scanMoving (.writeIn 3 0x77#8)))))).record? 0).map BlockRecord.payload =
      some [Config.freeByte 0, 0x00#8, 0xC9#8, 0xFF#8] := rfl

/-- Clause by clause: IN under a scan and while idle, NAME under a scan; a step that leaves the scan under way with a byte
moved, and one that ends it. -/
theorem witness_InputMovedUnderAScanReadsAsAnyValue :
    (∃ s : State, s.Inv ∧ s.status.busy = true ∧ 3 < s.params.inMax ∧ s.host = [.writeIn 3 0x77#8]) ∧
    (∃ s : State, s.Inv ∧ s.status.busy = false ∧ 3 < s.params.inMax ∧ s.host = [.writeIn 3 0x77#8]) ∧
    (∃ s : State, s.Inv ∧ s.status.busy = true ∧ 3 < s.params.nameMax ∧ s.host = [.writeName 3 0x77#8]) ∧
    (∃ u v : State, u.Inv ∧ u.status.busy = true ∧ u.moved = [(3, 0x77#8)] ∧ step u = .next v ∧
      v.status.busy = true ∧ ∀ b rest, u.host ≠ .writeIn 3 b :: rest) ∧
    (∃ u v : State, u.Inv ∧ u.status.busy = true ∧ step u = .next v ∧ v.status.busy = false) :=
  ⟨⟨_, scanMoving_inv (.writeIn 3 0x77#8), rfl, by decide, rfl⟩,
    ⟨_, inv_withHost idle_inv [.writeIn 3 0x77#8], rfl, by decide, rfl⟩,
    ⟨_, scanMoving_inv (.writeName 3 0x77#8), rfl, by decide, rfl⟩,
    ⟨scanMoved, _, scanMoved_inv, rfl, rfl, eq_ran (by decide), by decide, by simp [scanMoved, scanning, loaded, State.reset]⟩,
    ⟨scanning [], _, scanning_inv (by decide) (by decide), rfl, eq_ran (by decide), by decide⟩⟩

theorem witness_ScanEndsThoughInputMoves :
    ∃ s : State, s.Inv ∧ s.status.busy = true ∧ s.host = [.writeIn 3 0x77#8] ∧
      (∀ x ∈ s.host,
        (∃ a b, x = .writeIn a b ∧ a < s.params.inMax) ∨ (∃ a b, x = .writeName a b ∧ a < s.params.nameMax)) ∧
      (∀ m, s.params.recMax = some m → s.inLen / 4 ≤ m) := by
  refine ⟨_, scanMoving_inv (.writeIn 3 0x77#8), rfl, rfl, ?_, ?_⟩
  · intro x hx
    exact .inl ⟨3, 0x77#8, List.mem_singleton.mp hx, by decide⟩
  · intro m hm
    cases hm

theorem witness_IdleStaysIdle : ∃ s t : State, s.Inv ∧ s.status.busy = false ∧ step s = .next t :=
  ⟨_, _, idle_inv, rfl, eq_ran (by decide)⟩

theorem witness_RepeatedCommandsGiveTheSameResults :
    ∃ s t : State, Instr.dec.format = .cmd3 ∧ s.params.Legal ∧ s.inLen < 2 ^ s.params.argw ∧ exec .dec s = .next t :=
  ⟨loaded s1Data [], _, rfl, legal_default, by decide, eq_ran (by decide)⟩

/-- `ENC_TAP` in two states that differ in `A_DLEN` and in what is left over. -/
theorem witness_ResultsDependOnTheNamedOperandsAlone :
    ∃ s u t : State, s.params = u.params ∧ s.params.Legal ∧ s.inLen < 2 ^ s.params.argw ∧
      SameOperands .encTap s u ∧ s.aDlen ≠ u.aDlen ∧ exec .encTap s = .next t :=
  ⟨loaded s1Payload testName, { loaded s1Payload testName with aDlen := 0x7777, acc := 0x01#8 }, _, rfl, legal_default,
    by decide, ⟨by decide, rfl, by decide⟩, by decide, eq_ran (by decide)⟩

theorem witness_StepKeepsTheInvariant : ∃ s t : State, s.Inv ∧ s.status.busy = true ∧ step s = .next t :=
  ⟨scanning s1Data, _, scanning_inv (by decide) (by decide), rfl, eq_ran (by decide)⟩

end Sys2Proof.Tests
end

section
/-! PROOF. The refusals beyond a capacity (00_scope.md R9, 70_reset_and_hazards.md R221): a full REC refuses the next whole
block, so a scan that meets one frame more than `REC_MAX` is refused there; the encoders' checks, in their order (log 11). -/

namespace Sys2Proof.Machine

/-! ### The records -/

/-- Under a `REC_MAX` of `m`, REC is full from `m` records on. -/
theorem State.recFull_of_recMax {s : State} {m : Nat} (hm : s.params.recMax = some m) :
    s.recFull = decide (m ≤ s.recCnt) := by
  simp [State.recFull, hm]

/-- With REC full, recording is refused. -/
theorem State.recordBlock_of_recFull {s : State} (hf : s.recFull = true) (parse : Bool) (o : Nat) (p : List Byte) :
    s.recordBlock parse o p = .refused .recordsBeyondCapacity := by
  rcases State.recordBlock_cases s parse o p with ⟨-, h⟩ | ⟨h, -⟩
  · exact h
  · rw [hf] at h
    cases h

@[simp] theorem State.readBlock_recFull (s : State) (len : U16) (flag : Byte) :
    (s.readBlock len flag).recFull = s.recFull := rfl

/-- With REC full, a whole block at the cursor is refused. -/
theorem State.runBlock_whole_of_recFull {s : State} {len : U16} {flag : Byte} {parse : Bool}
    (hw : s.inLen < 2 ^ s.params.argw) (hf : s.recFull = true) (h2 : 2 ≤ len.toNat)
    (hin : s.cur + 2 + len.toNat ≤ s.inLen) :
    s.runBlock len flag parse = .refused .recordsBeyondCapacity := by
  rw [State.runBlock_whole hw h2 hin]
  exact State.recordBlock_of_recFull (by simpa using hf) parse _ _

/-- With REC full, a pass over a frame is refused. -/
theorem State.scanPass_frame_of_recFull {s : State} {f : Frame} {rest : List Byte} (hw : s.inLen < 2 ^ s.params.argw)
    (hf : s.recFull = true) (hp : f.payload.length ≤ 65533) (hr : s.rest = f.bytes ++ rest) :
    s.scanPass = .refused .recordsBeyondCapacity := by
  have ha := State.frameAt_of_rest hr
  have hfit := ha.fits
  have hL : (BitVec.ofNat 16 (f.payload.length + 2)).toNat = f.payload.length + 2 := by
    rw [BitVec.toNat_ofNat]; omega
  rw [State.scanPass_eq_runBlock hw (by omega), ha.length]
  exact State.runBlock_whole_of_recFull hw hf (by omega) (by omega)

/-- A scan that meets more frames than REC has room for is refused at the first one too many, whatever follows it. -/
theorem State.scan_beyond_recMax {fs : List Frame} {rest : List Byte} {s : State} {m n : Nat} (hs : s.Scanning)
    (hm : s.params.recMax = some m) (hle : s.recCnt ≤ m) (hp : ∀ f ∈ fs, f.payload.length ≤ 65533)
    (hr : s.rest = fs.flatMap Frame.bytes ++ rest) (hmany : m < s.recCnt + fs.length) (hn : m < s.recCnt + n) :
    s.scan n = .refused .recordsBeyondCapacity := by
  induction fs generalizing s n with
  | nil => simp at hmany; omega
  | cons f fs ih =>
    obtain ⟨n, rfl⟩ : ∃ k, n = k + 1 := ⟨n - 1, by omega⟩
    have hpf := hp f List.mem_cons_self
    rw [List.flatMap_cons, List.append_assoc] at hr
    by_cases hfull : m ≤ s.recCnt
    · have hpass := State.scanPass_frame_of_recFull hs.width
        (by rw [State.recFull_of_recMax hm]; exact decide_eq_true hfull) hpf hr
      simp [State.scan, hpass]
    · obtain ⟨t, ht, hts, hfix, -, hrest, hrc, -⟩ := State.scanPass_frame hs
        (by rw [State.recFull_of_recMax hm]; exact decide_eq_false hfull) hpf hr
      rw [State.scan_succ_busy ht hts.busy]
      rw [List.length_cons] at hmany
      exact ih hts (by rw [hfix.params]; exact hm) (by omega) (fun g hg => hp g (List.mem_cons_of_mem f hg)) hrest
        (by omega) (by omega)

/-- A frame has four bytes at least (30_encoding.md R70). -/
theorem four_mul_length_le_flatMap_bytes (fs : List Frame) : 4 * fs.length ≤ (fs.flatMap Frame.bytes).length := by
  induction fs with
  | nil => simp
  | cons f fs ih =>
    rw [List.flatMap_cons, List.length_append, Frame.bytes_length, List.length_cons]
    omega

/-- At the command start the cursor is at 0 (10_state.md R39), so the bytes from it on are the whole of IN. -/
theorem State.commandStart_rest (s : State) : s.commandStart.rest = s.inBytes := by
  rw [State.rest, State.commandStart_cur, ← s.commandStart_inBytes]
  rfl

/-- `DEC` on an IN that begins with more whole blocks than `REC_MAX`. -/
theorem execDec_beyond_recMax {s : State} {m : Nat} {fs : List Frame} {rest : List Byte}
    (hm : s.params.recMax = some m) (hin : s.inLen ≤ s.params.inMax) (hw : s.inLen < 2 ^ s.params.argw)
    (hp : ∀ f ∈ fs, f.payload.length ≤ 65533) (hr : s.inBytes = fs.flatMap Frame.bytes ++ rest)
    (hmany : m < fs.length) : execDec s = .refused .recordsBeyondCapacity := by
  have hlen : s.inLen = (fs.flatMap Frame.bytes).length + rest.length := by
    rw [← s.inBytes_length, hr, List.length_append]
  have hfour := four_mul_length_le_flatMap_bytes fs
  rw [execDec, if_neg (by omega)]
  exact State.scan_beyond_recMax (State.Scanning.commandStart hw) (by simpa using hm) (by simp) hp
    (by rw [State.commandStart_rest]; exact hr) (by simpa using hmany) (by simp; omega)

/-! ### The encoders -/

/-- The name check passes on a name of ASCII bytes (41_header_encode.md R113). -/
theorem nameOk_nameBytes {s : State} (h : ∀ i < s.nameLen, (s.byteAt .name i).toNat < 0x80) :
    nameOk s.nameBytes = true := by
  rw [nameOk, List.all_eq_true]
  intro b hb
  simp only [State.nameBytes, State.memRead, List.mem_map, List.mem_range'_1] at hb
  obtain ⟨i, ⟨-, hi⟩, rfl⟩ := hb
  exact decide_eq_true (h i (by omega))

/-- The size check passes on up to 65533 bytes (42_data_encode.md R132). -/
theorem sizeExceeded_eq_false {n : Nat} (h : n ≤ 65533) : sizeExceeded n = false :=
  decide_eq_false (by omega)

theorem execEncHdr_beyond_outMax {s : State} (hn : s.nameLen ≤ s.params.nameMax)
    (ha : ∀ i < s.nameLen, (s.byteAt .name i).toNat < 0x80) (ho : s.params.outMax < 21) :
    execEncHdr s = .refused .outputBeyondCapacity := by
  simp [execEncHdr, Nat.not_lt.mpr hn, nameOk_nameBytes ha, ho]

theorem execEncData_beyond_outMax {s : State} (hi : s.inLen ≤ s.params.inMax) (hsz : s.inLen ≤ 65533)
    (ho : s.params.outMax < s.inLen + 4) : execEncData s = .refused .outputBeyondCapacity := by
  simp [execEncData, Nat.not_lt.mpr hi, sizeExceeded_eq_false hsz, ho]

theorem execEncTap_beyond_outMax {s : State} (hn : s.nameLen ≤ s.params.nameMax)
    (ha : ∀ i < s.nameLen, (s.byteAt .name i).toNat < 0x80) (hi : s.inLen ≤ s.params.inMax) (hsz : s.inLen ≤ 65533)
    (ho : s.params.outMax < s.inLen + 25) : execEncTap s = .refused .outputBeyondCapacity := by
  simp [execEncTap, Nat.not_lt.mpr hi, Nat.not_lt.mpr hn, nameOk_nameBytes ha, sizeExceeded_eq_false hsz, ho]

/-! ### At the start of a command, and as instructions -/

/-- `IN_LEN > IN_MAX` is the first thing checked by each command that reads IN. -/
theorem exec_beyond_inMax {s : State} (h : s.params.inMax < s.inLen) {i : Instr}
    (hi : i = .csum ∨ i = .encData ∨ i = .encTap ∨ i = .dec) : exec i s = .refused .inputBeyondCapacity := by
  rcases hi with rfl | rfl | rfl | rfl <;> exact if_pos h

theorem execEncHdr_beyond_nameMax {s : State} (h : s.params.nameMax < s.nameLen) :
    execEncHdr s = .refused .nameBeyondCapacity := if_pos h

theorem execEncTap_beyond_nameMax {s : State} (hi : s.inLen ≤ s.params.inMax) (h : s.params.nameMax < s.nameLen) :
    execEncTap s = .refused .nameBeyondCapacity := by
  rw [execEncTap, if_neg (by omega), if_pos h]

/-- A block instruction of a recording class (30_encoding.md R80) at a whole block, REC full. -/
theorem exec_block_of_recFull {s : State} {i : Instr} {len : U16} (hw : s.inLen < 2 ^ s.params.argw)
    (hf : s.recFull = true) (hi : i = .blkHdr ∧ len = 0x0013#16 ∨ i = .blkData len ∨ ∃ flag, i = .blkOther len flag)
    (hwf : i.wellFormed = true) (hin : s.cur + 2 + len.toNat ≤ s.inLen) :
    exec i s = .refused .recordsBeyondCapacity := by
  rcases hi with ⟨rfl, rfl⟩ | rfl | ⟨flag, rfl⟩
  · exact State.runBlock_whole_of_recFull hw hf (by decide) hin
  · exact State.runBlock_whole_of_recFull hw hf (of_decide_eq_true hwf) hin
  · simp only [Instr.wellFormed, Bool.and_eq_true, decide_eq_true_eq] at hwf
    obtain ⟨⟨h2, -⟩, -⟩ := hwf
    exact State.runBlock_whole_of_recFull hw hf h2 hin

/-- Settles O55, clause by clause: the checks at a command's start, the encoders' output check after their fault checks, the
scan's refusal at the record too many, and a block's with REC full. -/
theorem commandsBeyondACapacityAreRefused : Obligations.CommandsBeyondACapacityAreRefused := by
  intro s
  refine ⟨?input, ?name, ?headerOut, ?dataOut, ?records, ?block⟩
  case input => exact fun h i hi => exec_beyond_inMax h hi
  case name => exact fun h => ⟨execEncHdr_beyond_nameMax h, fun hi => execEncTap_beyond_nameMax hi h⟩
  case headerOut =>
    exact fun hn ha => ⟨execEncHdr_beyond_outMax hn ha, fun hi hsz ho => execEncTap_beyond_outMax hn ha hi hsz ho⟩
  case dataOut => exact fun hi hsz ho => execEncData_beyond_outMax hi hsz ho
  case records => exact fun m fs rest hm hin hw hp hr hmany => execDec_beyond_recMax hm hin hw hp hr hmany
  case block =>
    intro m i len hm hle hw hi hwf hin
    exact exec_block_of_recFull hw (by rw [State.recFull_of_recMax hm]; exact decide_eq_true hle) hi hwf hin

end Sys2Proof.Machine
end

section
/-! PROOF. The atomic `DEC` is the walk of its blocks (44_decode.md R150, R158): with no host action to come, the steps of a
scan under way are the passes of its loop over IN as the scan reads it (logs 8, 9 and 13). -/

namespace Sys2Proof.Machine

/-- A pass that leaves the scan under way leaves its counters uncut (10_state.md R31, 44_decode.md R158). -/
theorem State.Scanning.scanPass {s t : State} (hs : s.Scanning) (ht : s.scanPass = .next t)
    (hb : t.status.busy = true) : t.Scanning := by
  rcases State.scanPass_cases hs with ⟨-, h⟩ | ⟨l, f, c, e, -, -, h⟩ | ⟨f, hlen, hrest, hfull⟩
  · rw [h] at ht
    cases ht
    simp at hb
  · rw [h] at ht
    cases ht
    simp at hb
  · cases hf : s.recFull
    · obtain ⟨u, hu, hus, -⟩ := State.scanPass_frame hs hf hlen hrest
      rw [hu] at ht
      cases ht
      exact hus
    · rw [hfull hf] at ht
      cases ht

theorem State.Scanning.scanned {s : State} (hs : s.Scanning) : s.scanned.Scanning :=
  ⟨hs.width, hs.cursor, hs.busy, hs.records, hs.warns⟩

theorem State.Scanning.settle {s t : State} (ht : t.Scanning) : (s.settle t).Scanning :=
  ⟨ht.width, ht.cursor, ht.busy, ht.records, ht.warns⟩

theorem State.settle_scanned {s : State} (hb : s.status.busy = true) : s.settle s.scanned = s := by
  simp only [State.settle, State.scanned, hb, if_true]

/-- With no host action to come, a step of a scan under way is a pass over IN as the scan reads it, settled. -/
theorem step_scan {s : State} (hh : s.host = []) (hs : s.Scanning) : step s = s.settled s.scanned.scanPass := by
  rw [step, State.stepOnce, hh, ← State.scanStep_eq_scanPass hs.width hs.cursor]
  exact if_pos hs.busy

/-- With no host action to come, `n` steps of a scan under way are `n` passes of the loop, settled. -/
theorem run_scan {n : Nat} {s : State} (hh : s.host = []) (hs : s.Scanning) :
    (Host.Core.run Sys2Proof.core n s : Host.Outcome State Fault Refusal) = s.settled (s.scanned.scan n) := by
  induction n generalizing s with
  | zero => exact congrArg Host.Outcome.next (State.settle_scanned hs.busy).symm
  | succ n ih =>
    have hstep := step_scan hh hs
    cases hp : s.scanned.scanPass with
    | next t =>
      rw [hp] at hstep
      have hfix : State.SameFixed s.scanned t := State.SameFixed.scanPass hp
      have hth : (s.settle t).host = [] := hfix.host.trans hh
      refine (run_succ_next n hstep).trans ?_
      cases hb : t.status.busy with
      | true =>
        have hrun := ih hth (hs.scanned.scanPass hp hb).settle
        rwa [State.scanned_settle hfix hb, State.settled_settle hb, ← State.scan_succ_busy hp hb] at hrun
      | false =>
        rw [State.scan_succ_idle hp hb]
        exact run_idle n hth hb
    | fault e =>
      rw [State.scan, hp]
      exact run_succ_fault n (hstep.trans (congrArg s.settled hp))
    | refused e =>
      rw [State.scan, hp]
      exact run_succ_refused n (hstep.trans (congrArg s.settled hp))

/-- Settles O19: by `run_scan`, an induction over the passes; where nothing moved, settling changes nothing. -/
theorem atomicDecIsTheWalkOfItsBlocks : Obligations.AtomicDecIsTheWalkOfItsBlocks := by
  intro s _ hw hin hh hm
  have hstill : s.commandStart.moved = [] := by simpa using hm
  have hrun := run_scan (n := s.inLen / 4 + 1) (by simpa using hh) (State.Scanning.commandStart hw)
  rw [State.scanned_of_still hstill,
    State.settled_of_still hstill fun t ht => State.SameFixed.scan (by simp) ht] at hrun
  exact hrun.trans (if_neg (Nat.not_lt.mpr hin)).symm

end Sys2Proof.Machine
end

section
/-! PROOF. The decoder's results (30_encoding.md R80, R82, R84) and the layout of the `STATUS` word (10_state.md R22). -/

namespace Sys2Proof

/-! ### Block heads -/

theorem classify_wellFormed (len : U16) (flag : Byte) : (classify len flag).wellFormed = true := by
  have two_le : len ≠ 0x0000#16 → len ≠ 0x0001#16 → 2 ≤ len.toNat := by
    intro h0 h1
    bv_omega
  unfold classify
  split
  · rfl
  · split
    · rfl
    · split
      · rfl
      · split
        · exact decide_eq_true (two_le ‹_› ‹_›)
        · rename_i h0 h1 hshape hdata
          simp only [Instr.wellFormed, Bool.and_eq_true, Bool.not_eq_true', decide_eq_true_eq, bne_iff_ne,
            Bool.and_eq_false_iff, beq_eq_false_iff_ne]
          exact ⟨⟨two_le h0 h1, hdata⟩, not_and_or.mp hshape⟩

theorem encode_classify (len : U16) (flag : Byte) : encode (classify len flag) = le16 len ++ [flag] := by
  unfold classify
  split
  · subst len
    rfl
  · split
    · subst len
      rfl
    · split
      · rename_i h
        obtain ⟨rfl, rfl⟩ := h
        rfl
      · split
        · subst flag
          rfl
        · rfl

/-! ### Command codes -/

theorem decodeCode_format (c : BitVec 3) : (decodeCode c).format = .cmd3 := by
  revert c
  decide

theorem decodeCode_wellFormed (c : BitVec 3) : (decodeCode c).wellFormed = true := by
  revert c
  decide

/-- The byte of a command is its code (R84). -/
theorem encode_decodeCode (c : BitVec 3) : encode (decodeCode c) = [c.setWidth 8] := by
  revert c
  decide

theorem setWidth_extractLsb'_zero (b : Byte) : (b.extractLsb' 0 3).setWidth 8 = b &&& 0x07#8 := by
  apply BitVec.eq_of_toNat_eq
  simp [Nat.and_two_pow_sub_one_eq_mod b.toNat 3]
  omega

/-- Settles O2: by the shape of the bytes, with the facts about a command code and about a block's head. -/
theorem decodedInstructionIsWellFormed : Obligations.DecodedInstructionIsWellFormed := by
  intro fmt bytes rest i h
  cases fmt with
  | cmd3 =>
    cases bytes with
    | nil => cases h
    | cons b bs =>
      cases h
      refine ⟨decodeCode_wellFormed _, decodeCode_format _, fun hf => (by cases hf), fun _ => ⟨b, rfl, ?_⟩⟩
      rw [encode_decodeCode, setWidth_extractLsb'_zero]
  | framedBlock =>
    match bytes with
    | [] => cases h
    | [_] => cases h
    | [_, _] => cases h
    | b0 :: b1 :: flag :: _ =>
      have hf := Machine.format_of_decode h
      cases h
      refine ⟨classify_wellFormed _ _, hf, fun _ => ?_,
        fun hf => (by cases hf)⟩
      rw [encode_classify, le16_u16le]
      rfl

/-! ### The status word -/

/-- Settles O45: over the 64 values of the four fields. -/
theorem statusWordLayout : Obligations.StatusWordLayout := by
  rintro ⟨busy, done, warn, err⟩
  revert busy done warn err
  decide

end Sys2Proof
end

section
/-! PROOF. The blocks as instructions (44_decode.md R156 to R162): what recording a whole block leaves, and that no block moves
the cursor back (10_state.md R31). -/

namespace Sys2Proof.Machine

/-! ### Recording a header-shaped block -/

/-- A header that unpacks: its fields are loaded and the record holds it (R160, R162). -/
theorem State.recordBlock_header {s : State} {o : Nat} {p : List Byte} {h : Header} (hf : s.recFull = false)
    (hu : unpack p = some h) :
    s.recordBlock true o p =
      .next (((s.loadHeader h).putRec s.recCnt (s.recordOf true o p)).setRecCnt (s.recCnt + 1)) := by
  have hf' : (s.loadHeader h).recFull = false := hf
  simp only [State.recordBlock, hu, if_true, State.appendRecord, hf', State.recordOf, Option.isNone_some,
    Bool.and_false]
  rfl

/-- A header that does not: the warning, and the record marked with it (R161). -/
theorem State.recordBlock_warning {s : State} {o : Nat} {p : List Byte} (hf : s.recFull = false)
    (hu : unpack p = none) :
    s.recordBlock true o p =
      .next ((((s.setWarnCnt (s.warnCnt + 1)).setStatus s.status.warned).putRec s.recCnt
        (s.recordOf true o p)).setRecCnt (s.recCnt + 1)) := by
  have hf' : ((s.setWarnCnt (s.warnCnt + 1)).setStatus s.status.warned).recFull = false := hf
  simp only [State.recordBlock, hu, if_true, State.appendRecord, hf', State.recordOf, Option.isNone_none,
    Bool.and_true]
  rfl

/-- `BLK_HDR` on a whole block at the cursor. -/
theorem execBlkHdr_whole {s : State} (hw : s.inLen < 2 ^ s.params.argw) (hin : s.cur + 21 ≤ s.inLen) :
    exec .blkHdr s = (s.readBlock 0x0013#16 0x00#8).recordBlock true (s.cur + 3) (s.memRead .inp (s.cur + 3) 17) :=
  State.runBlock_whole hw (by decide) hin

/-- Settles O25, by whether the payload unpacks. -/
theorem blkHdrRecordsAndUnpacks : Obligations.BlkHdrRecordsAndUnpacks := by
  intro s hw hin hf hrc hwc
  have hrec : s.fit (s.recCnt + 1) = s.recCnt + 1 := State.fit_of_lt hrc
  have hwarn : s.fit (s.warnCnt + 1) = s.warnCnt + 1 := State.fit_of_lt hwc
  rw [execBlkHdr_whole hw hin]
  generalize hp : s.memRead .inp (s.cur + 3) 17 = p
  cases hu : unpack p with
  | none =>
    refine ⟨_, State.recordBlock_warning (s := s.readBlock 0x0013#16 0x00#8) hf hu, rfl, hrec, ?_, rfl, rfl, rfl,
      fun _ => ⟨hwarn, rfl⟩, fun h hh => (by cases hh)⟩
    simp [State.record?, State.readBlock, State.recordOf, hu]
  | some h =>
    refine ⟨_, State.recordBlock_header (s := s.readBlock 0x0013#16 0x00#8) hf hu, rfl, hrec, ?_, rfl, rfl, rfl,
      fun hh => (by cases hh), fun h' hh => ?_⟩
    · simp [State.record?, State.readBlock, State.recordOf, hu]
    · cases hh
      exact ⟨rfl, rfl, rfl, rfl, rfl, rfl, rfl, rfl⟩

/-! ### Recording a block of another class -/

/-- A whole block that is not parsed. -/
theorem State.runBlock_unparsed {s : State} {len : U16} {flag : Byte} (hw : s.inLen < 2 ^ s.params.argw)
    (h2 : 2 ≤ len.toNat) (hin : s.cur + 2 + len.toNat ≤ s.inLen) (hf : s.recFull = false) :
    s.runBlock len flag false =
      .next (((s.readBlock len flag).putRec s.recCnt ((s.readBlock len flag).recordOf false (s.cur + 3)
        (s.memRead .inp (s.cur + 3) (len.toNat - 2)))).setRecCnt (s.recCnt + 1)) := by
  have hf' : (s.readBlock len flag).recFull = false := hf
  rw [State.runBlock_whole hw h2 hin]
  simp only [State.recordBlock, State.appendRecord, hf']
  rfl

/-- A well-formed block of the two classes is `runBlock` on its length and flag, without a parse. -/
theorem exec_dataOrOther {i : Instr} {len : U16} {flag : Byte}
    (hi : i = .blkData len ∧ flag = 0xFF#8 ∨ i = .blkOther len flag) (hwf : i.wellFormed = true) (s : State) :
    exec i s = s.runBlock len flag false ∧ 2 ≤ len.toNat := by
  rcases hi with ⟨rfl, rfl⟩ | rfl
  · exact ⟨rfl, of_decide_eq_true hwf⟩
  · simp only [Instr.wellFormed, Bool.and_eq_true, decide_eq_true_eq] at hwf
    obtain ⟨⟨h2, -⟩, -⟩ := hwf
    exact ⟨rfl, h2⟩

/-- Settles O26: the next state of `State.runBlock_unparsed`, field by field. -/
theorem blkDataAndOtherRecordTheBlock : Obligations.BlkDataAndOtherRecordTheBlock := by
  intro s i len flag hi hwf hw hin hf hrc
  obtain ⟨he, h2⟩ := exec_dataOrOther hi hwf s
  refine ⟨_, he.trans (State.runBlock_unparsed hw h2 hin hf), rfl, State.fit_of_lt (s := s) hrc, ?_, rfl, rfl, rfl, rfl,
    rfl⟩
  simp [State.record?, State.readBlock, State.recordOf]

/-! ### The cursor -/

/-- A block moves the cursor on, never past `IN_LEN` (10_state.md R31, 44_decode.md R158). -/
theorem State.runBlock_cursor {s t : State} {len : U16} {flag : Byte} {parse : Bool}
    (hw : s.inLen < 2 ^ s.params.argw) (hc : s.cur ≤ s.inLen) (ht : s.runBlock len flag parse = .next t) :
    s.cur ≤ t.cur ∧ t.cur ≤ s.inLen := by
  by_cases h3 : s.inLen < s.cur + 3
  · obtain ⟨l, c, h, hle, hin⟩ := State.runBlock_headShort (len := len) (flag := flag) (parse := parse) hw h3
    cases ht.symm.trans h
    exact ⟨hle, hin hc⟩
  by_cases h2 : len.toNat < 2
  · cases ht.symm.trans (State.runBlock_lengthShort hw (Nat.not_lt.mp h3) h2)
    exact ⟨Nat.le_add_right _ _, Nat.not_lt.mp h3⟩
  by_cases hfit : s.inLen < s.cur + 2 + len.toNat
  · obtain ⟨c, h, hle, hin⟩ :=
      State.runBlock_bodyShort (flag := flag) (parse := parse) hw (Nat.not_lt.mp h3) (Nat.not_lt.mp h2) hfit
    cases ht.symm.trans h
    exact ⟨hle, hin⟩
  · rw [State.runBlock_whole hw (Nat.not_lt.mp h2) (Nat.not_lt.mp hfit)] at ht
    rcases State.recordBlock_cases (s.readBlock len flag) parse (s.cur + 3)
      (s.memRead .inp (s.cur + 3) (len.toNat - 2)) with ⟨-, h⟩ | ⟨-, u, h, -, hcur, -⟩
    · cases ht.symm.trans h
    · cases ht.symm.trans h
      have hpast : t.cur = s.cur + 2 + len.toNat := hcur
      omega

/-- Settles O29: every block instruction is `runBlock` on its own head (`exec_block`), so `State.runBlock_cursor` applies. -/
theorem cursorOnlyMovesForward : Obligations.CursorOnlyMovesForward := by
  intro s t i hi hw hc h
  obtain ⟨len, flag, he⟩ := exec_block hi s
  have hrun := he.symm.trans h
  rw [(State.SameFixed.runBlock hrun).inLen]
  exact State.runBlock_cursor hw hc hrun

end Sys2Proof.Machine
end

section
/-! PROOF. What the commands deliver: for every command but `DEC`, the pure function of its operands it answers with
(30_encoding.md R86), and the one inversion of `exec` every statement about its results needs. -/

namespace Sys2Proof.Machine

/-! ### What every instruction keeps -/

/-- Of the fixed part of the state an instruction writes at most OUT (10_state.md R38, R41). -/
theorem exec_sameFixed {i : Instr} {s t : State} (h : exec i s = .next t) :
    State.SameFixed { s with outMem := t.outMem } t := by
  cases hi : i.format with
  | framedBlock =>
    obtain ⟨len, flag, he⟩ := exec_block hi s
    have hf : State.SameFixed s t := State.SameFixed.runBlock (he.symm.trans h)
    exact { hf with outMem := rfl }
  | cmd3 =>
    rcases exec_command_cases hi h with ⟨-, -, f, rfl⟩ | ⟨-, -, rfl⟩ | ⟨-, m, o, l, f, k, a, rfl⟩ |
      ⟨-, nm, d, a, m, o, l, f, k, c, rfl⟩ | ⟨-, -, hsc⟩
    · constructor <;> simp
    · constructor <;> simp
    · constructor <;> simp [State.emitting]
    · constructor <;> simp [State.emitting, State.pack]
    · have hf : State.SameFixed s t := (State.SameFixed.commandStart s).trans (State.SameFixed.scan (by simp) hsc)
      exact { hf with outMem := rfl }

/-- Settles O35: an instruction writes at most OUT of the fixed part of the state. -/
theorem operandsAndInputsAreKept : Obligations.OperandsAndInputsAreKept := by
  intro i s t h
  have hf := exec_sameFixed h
  exact ⟨hf.aDlen, hf.aAddr, hf.inLen, hf.nameLen, fun a => hf.byteAt .inp a, fun a => hf.byteAt .name a⟩

/-- A block that leaves the scan under way has recorded, so it leaves the results of other kinds. -/
theorem State.runBlock_busy {s t : State} {len : U16} {flag : Byte} {parse : Bool}
    (ht : s.runBlock len flag parse = .next t) (hb : t.status.busy = true) :
    t.outLen = s.outLen ∧ t.acc = s.acc ∧ t.status.done = s.status.done ∧ t.status.err = s.status.err := by
  rcases State.runBlock_cases s len flag parse with ⟨l, f, k, c, ⟨e, -, h⟩ | ⟨o, p, h⟩⟩
  · rw [h] at ht
    cases ht
    simp at hb
  · rw [h] at ht
    rcases State.recordBlock_cases (s.reading l f k c) parse o p with
      ⟨-, h⟩ | ⟨-, u, hu, -, -, hout, hacc, -, -, -, -, -, -, hst, -⟩
    · rw [h] at ht
      cases ht
    · rw [hu] at ht
      cases ht
      refine ⟨hout, hacc, ?_, ?_⟩ <;> rw [hst] <;> split <;> rfl

/-- Settles O39: `exec_sameFixed`, and a block that leaves the scan under way has not raised. -/
theorem blocksAndHostSideFrame : Obligations.BlocksAndHostSideFrame := by
  intro i s t h
  have hf := exec_sameFixed h
  refine ⟨⟨hf.params, hf.moved, hf.host, hf.reply, hf.epoch, hf.free⟩, fun hi _ hb => ?_⟩
  obtain ⟨len, flag, he⟩ := exec_block hi s
  exact State.runBlock_busy (he.symm.trans h) hb

/-! ### The commands but `DEC` -/

/-- What a command other than `DEC` answers its operands with: the bytes it leaves in OUT and the checksum it leaves in
`ACC`; the block's fault it raises (for a reserved code R85's); or the refusal of a capacity (log 11). The last arm is
meant for the reserved codes; `exec_answers`, which ties this to `exec`, leaves `DEC` and the block instructions out. -/
def State.delivery (s : State) : Instr → Host.Outcome (List Byte × Byte) TapFault Refusal
  | .csum => if s.params.inMax < s.inLen then .refused .inputBeyondCapacity else .next ([], xorFold s.inBytes)
  | .encHdr =>
    if s.params.nameMax < s.nameLen then .refused .nameBeyondCapacity
    else if nameOk s.nameBytes = false then .fault .encodingError
    else if s.params.outMax < 21 then .refused .outputBeyondCapacity
    else
      let p := packedPayload s.nameBytes s.aDlen s.aAddr
      .next (blk 0x00#8 p, xorFold (0x00#8 :: p))
  | .encData =>
    if s.params.inMax < s.inLen then .refused .inputBeyondCapacity
    else if sizeExceeded s.inLen then .fault .sizeExceeded
    else if s.params.outMax < s.inLen + 4 then .refused .outputBeyondCapacity
    else .next (blk 0xFF#8 s.inBytes, xorFold (0xFF#8 :: s.inBytes))
  | .encTap =>
    if s.params.inMax < s.inLen then .refused .inputBeyondCapacity
    else if s.params.nameMax < s.nameLen then .refused .nameBeyondCapacity
    else if nameOk s.nameBytes = false then .fault .encodingError
    else if sizeExceeded s.inLen then .fault .sizeExceeded
    else if s.params.outMax < s.inLen + 25 then .refused .outputBeyondCapacity
    else
      .next (blk 0x00#8 (packedPayload s.nameBytes s.inLen s.aAddr) ++ blk 0xFF#8 s.inBytes,
        xorFold (0xFF#8 :: s.inBytes))
  | _ => .fault .illegalCommand

/-- A command begun at `s`, no `DEC`, has come to `u`: it has put `bs` in OUT, `a` stands in `ACC`, and no record is made. -/
structure State.Produced (s u : State) (bs : List Byte) (a : Byte) : Prop where
  fixed   : State.SameFixed { s with outMem := Memory.writeSeq s.outMem 0 bs } u
  status  : u.status = s.status.started
  outLen  : u.outLen = bs.length
  acc     : u.acc = a
  recCnt  : u.recCnt = 0
  warnCnt : u.warnCnt = 0
  cur     : u.cur = 0
  hNlen   : u.hNlen = s.hNlen
  recMem  : u.recMem = s.recMem
  fits    : bs.length < 2 ^ s.params.argw

theorem State.Produced.commandStart (s : State) : s.Produced s.commandStart [] 0x00#8 where
  fixed := State.SameFixed.commandStart s
  status := s.commandStart_status
  outLen := s.commandStart_outLen
  acc := s.commandStart_acc
  recCnt := s.commandStart_recCnt
  warnCnt := s.commandStart_warnCnt
  cur := s.commandStart_cur
  hNlen := s.commandStart_hNlen
  recMem := s.commandStart_recMem
  fits := Nat.two_pow_pos _

theorem State.Produced.setAcc {s u : State} {bs : List Byte} {a : Byte} (h : s.Produced u bs a) (b : Byte) :
    s.Produced (u.setAcc b) bs b :=
  { h with fixed := { h.fixed with }, acc := rfl }

theorem State.Produced.pack {s u : State} {bs : List Byte} {a : Byte} (h : s.Produced u bs a) (nm : List Byte)
    (d ad : Nat) : s.Produced (u.pack nm d ad) bs a :=
  { h with fixed := { h.fixed with } }

/-- One more block emitted (42_data_encode.md R131). -/
theorem State.Produced.emitBlock {s u : State} {bs : List Byte} {a : Byte} (h : s.Produced u bs a) {f : Byte}
    {p : List Byte} (hw : bs.length + (p.length + 4) < 2 ^ s.params.argw) :
    s.Produced (u.emitBlock f p) (bs ++ blk f p) (xorFold (f :: p)) := by
  have hp : u.params = s.params := h.fixed.params
  have hm : u.outMem = Memory.writeSeq s.outMem 0 bs := h.fixed.outMem
  rw [State.emitBlock_eq f p (by rw [h.outLen, hp]; exact hw)]
  refine { h with fixed := { h.fixed with outMem := ?_ }, outLen := ?_, acc := rfl, fits := by simpa using hw }
  · simp only [hm, h.outLen, Memory.writeSeq_append, Nat.zero_add]
  · simp only [h.outLen, List.length_append, blk_length]

theorem State.Produced.inBytes {s u : State} {bs : List Byte} {a : Byte} (h : s.Produced u bs a) :
    u.inBytes = s.inBytes := by
  rw [State.inBytes, h.fixed.inLen]
  exact h.fixed.memRead .inp 0 s.inLen

/-- The outcome `o` of a command begun at `s` is the one its delivery says. -/
def State.Answers (s : State) (o : Host.Outcome State Fault Refusal) :
    Host.Outcome (List Byte × Byte) TapFault Refusal → Prop
  | .next d => ∃ u, o = .next u.commandEnd ∧ s.Produced u d.1 d.2
  | .fault f => o = .next (s.commandStart.raise f)
  | .refused r => o = .refused r

@[simp] theorem packedPayload_length (nm : List Byte) (d a : Nat) : (packedPayload nm d a).length = 17 := by
  simp [packedPayload, headerPayload]

@[simp] theorem State.pack_fieldPayload (s : State) (nm : List Byte) (d a : Nat) :
    (s.pack nm d a).fieldPayload = packedPayload nm d a := rfl

theorem sizeExceeded_eq_true_iff {n : Nat} : sizeExceeded n = true ↔ 65533 < n := by
  rw [sizeExceeded, decide_eq_true_iff]
  omega

/-- 65558 bytes, the most a command emits, are counted in every legal width (00_scope.md R9). -/
theorem lt_width_of_legal {p : Config.Params} (h : p.Legal) {n : Nat} (hn : n ≤ 65558) : n < 2 ^ p.argw :=
  calc n < 2 ^ 17 := by omega
    _ ≤ 2 ^ p.argw := Nat.pow_le_pow_right (by decide) h.1

theorem execCsum_answers (s : State) : s.Answers (execCsum s) (s.delivery .csum) := by
  unfold execCsum State.delivery
  split
  · rfl
  · refine ⟨_, rfl, ?_⟩
    rw [State.absorbSeq_eq]
    simpa using (State.Produced.commandStart s).setAcc (xorFold s.inBytes)

theorem execEncHdr_answers {s : State} (hl : s.params.Legal) : s.Answers (execEncHdr s) (s.delivery .encHdr) := by
  unfold execEncHdr State.delivery
  simp only [State.commandStart_nameBytes, State.commandStart_params, State.commandStart_aDlen,
    State.commandStart_aAddr, State.pack_fieldPayload]
  split
  · rfl
  · split
    · rfl
    · split
      · rfl
      · exact ⟨_, rfl, ((State.Produced.commandStart s).pack _ _ _).emitBlock (lt_width_of_legal hl (by simp))⟩

theorem execEncData_answers {s : State} (hl : s.params.Legal) : s.Answers (execEncData s) (s.delivery .encData) := by
  unfold execEncData State.delivery
  simp only [State.commandStart_inLen, State.commandStart_params, State.commandStart_inBytes]
  split
  · rfl
  · split
    · rfl
    · rename_i hsz
      rw [sizeExceeded_eq_true_iff] at hsz
      split
      · rfl
      · exact ⟨_, rfl, (State.Produced.commandStart s).emitBlock (lt_width_of_legal hl (by simp; omega))⟩

theorem execEncTap_answers {s : State} (hl : s.params.Legal) : s.Answers (execEncTap s) (s.delivery .encTap) := by
  unfold execEncTap State.delivery
  simp only [State.commandStart_inLen, State.commandStart_params, State.commandStart_nameBytes,
    State.commandStart_aAddr, State.pack_fieldPayload]
  split
  · rfl
  · split
    · rfl
    · split
      · rfl
      · split
        · rfl
        · rename_i hsz
          rw [sizeExceeded_eq_true_iff] at hsz
          split
          · rfl
          · have hhdr := ((State.Produced.commandStart s).pack s.nameBytes s.inLen s.aAddr).emitBlock (f := 0x00#8)
              (p := packedPayload s.nameBytes s.inLen s.aAddr) (lt_width_of_legal hl (by simp))
            have hboth := hhdr.emitBlock (f := 0xFF#8) (p := s.inBytes) (lt_width_of_legal hl (by simp; omega))
            exact ⟨_, by rw [hhdr.inBytes], hboth⟩

/-- Every command but `DEC` answers with its delivery. -/
theorem exec_answers {i : Instr} {s : State} (hl : s.params.Legal) (hi : i.format = .cmd3) (hd : i ≠ .dec) :
    s.Answers (exec i s) (s.delivery i) := by
  cases i with
  | csum => exact execCsum_answers s
  | encHdr => exact execEncHdr_answers hl
  | encData => exact execEncData_answers hl
  | encTap => exact execEncTap_answers hl
  | dec => exact absurd rfl hd
  | reserved0 => rfl
  | reserved6 => rfl
  | reserved7 => rfl
  | blkIllegalLen0 _ => cases hi
  | blkIllegalLen1 _ => cases hi
  | blkHdr => cases hi
  | blkData _ => cases hi
  | blkOther _ _ => cases hi

/-- The inversion: a command but `DEC` that answers a next state has raised a fault or has ended with its delivery. -/
theorem exec_next_cases {i : Instr} {s t : State} (hl : s.params.Legal) (hi : i.format = .cmd3) (hd : i ≠ .dec)
    (h : exec i s = .next t) :
    (∃ f, s.delivery i = .fault f ∧ t = s.commandStart.raise f) ∨
    ∃ bs a u, s.delivery i = .next (bs, a) ∧ t = u.commandEnd ∧ s.Produced u bs a := by
  have ha := exec_answers hl hi hd
  cases hdl : s.delivery i with
  | next d =>
    rw [hdl] at ha
    obtain ⟨u, hu, hp⟩ := ha
    cases h.symm.trans hu
    exact .inr ⟨_, _, u, rfl, rfl, hp⟩
  | fault f =>
    rw [hdl] at ha
    cases h.symm.trans ha
    exact .inl ⟨f, rfl, rfl⟩
  | refused r =>
    rw [hdl] at ha
    cases h.symm.trans ha

end Sys2Proof.Machine
end

section
/-! PROOF. How commands end (10_state.md R27 to R30, R40): idle and done, with the results of their kind. -/

namespace Sys2Proof.Machine

/-! ### The end of a scan -/

/-- A pass leaves `OUT_LEN` and `ACC` at 0 where they are (10_state.md R27, R30). -/
theorem State.scanPass_keeps_cleared {s t : State} (h : s.outLen = 0 ∧ s.acc = 0x00#8) (ht : s.scanPass = .next t) :
    t.outLen = 0 ∧ t.acc = 0x00#8 := by
  rcases State.scanPass_forms s with hp | ⟨l, f, k, c, ⟨e, -, hp⟩ | ⟨parse, o, p, hp⟩⟩
  · rw [hp] at ht
    cases ht
    simpa using h
  · rw [hp] at ht
    cases ht
    simp
  · rw [hp] at ht
    rcases State.recordBlock_cases (s.reading l f k c) parse o p with ⟨-, hr⟩ | ⟨-, u, hu, -, -, hout, hacc, -⟩
    · rw [hr] at ht
      cases ht
    · rw [hu] at ht
      cases ht
      exact ⟨hout.trans h.1, hacc.trans h.2⟩

theorem State.scan_commandStart_cleared {n : Nat} {s t : State} (ht : s.commandStart.scan n = .next t) :
    t.outLen = 0 ∧ t.acc = 0x00#8 :=
  State.scan_induction (P := fun u => u.outLen = 0 ∧ u.acc = 0x00#8)
    (fun _ _ hu _ hp => State.scanPass_keeps_cleared hu hp) (by simp) (by simp) ht

/-- A scan with passes enough for the bytes that remain, where it answers a next state, has ended the command (R40). -/
theorem State.scan_next_ended {n : Nat} {s t : State} (hs : s.Scanning) (herr : s.status.err = 0#3)
    (hn : (s.inLen - s.cur) / 4 < n) (h : s.scan n = .next t) :
    t.status.busy = false ∧ t.status.done = true ∧ (t.status.err = 0#3 ∨ ∃ f : TapFault, t.status = .faulted f) := by
  induction n generalizing s with
  | zero => omega
  | succ n ih =>
    rcases State.scanPass_cases hs with ⟨-, hp⟩ | ⟨l, f, c, e, -, -, hp⟩ | ⟨f, hlen, hrest, hfull⟩
    · rw [State.scan_succ_idle hp (by simp)] at h
      cases h
      exact ⟨rfl, rfl, .inl (by simpa using herr)⟩
    · rw [State.scan_succ_idle hp (by simp)] at h
      cases h
      exact ⟨rfl, rfl, .inr ⟨e, rfl⟩⟩
    · cases hf : s.recFull
      · have hfit := (State.frameAt_of_rest hrest).fits
        obtain ⟨u, hu, hus, hfix, hcur, -, -, -, -, -, hst, -⟩ := State.scanPass_frame hs hf hlen hrest
        rw [State.scan_succ_busy hu hus.busy] at h
        exact ih hus (by rw [hst]; exact herr) (by rw [hfix.inLen]; omega) h
      · rw [State.scan, hfull hf] at h
        cases h

/-! ### The results of each kind -/

/-- Settles O33: by the forms of a command's next state, `DEC`'s by the passes of its scan. -/
theorem resultsOfTheOtherKindAreCleared : Obligations.ResultsOfTheOtherKindAreCleared := by
  intro s t
  refine ⟨fun i hi h => ?outLen, fun i hi hd h => ?records, fun i hi h => ?acc⟩
  case outLen =>
    have hf : i.format = .cmd3 := by rcases hi with rfl | rfl | rfl | rfl | rfl <;> rfl
    rcases exec_command_cases hf h with ⟨-, -, f, rfl⟩ | ⟨-, -, rfl⟩ | ⟨rfl, -⟩ | ⟨rfl | rfl, -⟩ | ⟨-, -, hsc⟩
    · simp
    · simp
    · simp at hi
    · simp at hi
    · simp at hi
    · exact (State.scan_commandStart_cleared hsc).1
  case records =>
    rcases exec_command_cases hi h with ⟨-, -, f, rfl⟩ | ⟨-, -, rfl⟩ | ⟨-, m, o, l, f, k, a, rfl⟩ |
      ⟨-, nm, d, a, m, o, l, f, k, c, rfl⟩ | ⟨rfl, -⟩
    · simp
    · simp
    · simp [State.emitting]
    · simp [State.emitting, State.pack]
    · exact absurd rfl hd
  case acc =>
    have hf : i.format = .cmd3 := by rcases hi with rfl | rfl | rfl | rfl <;> rfl
    rcases exec_command_cases hf h with ⟨-, -, f, rfl⟩ | ⟨rfl, -⟩ | ⟨rfl, -⟩ | ⟨rfl | rfl, -⟩ | ⟨-, -, hsc⟩
    · simp
    · simp at hi
    · simp at hi
    · simp at hi
    · simp at hi
    · exact (State.scan_commandStart_cleared hsc).2

/-! ### Completion -/

/-- What a `DEC` that is not refused at its start is: the scan from the command start (44_decode.md R150). -/
theorem exec_dec_next {s t : State} (h : exec .dec s = .next t) :
    s.inLen ≤ s.params.inMax ∧ s.commandStart.scan (s.inLen / 4 + 1) = .next t := by
  rcases exec_command_cases rfl h with ⟨-, hd, -⟩ | ⟨hd, -⟩ | ⟨hd, -⟩ | ⟨hd | hd, -⟩ | ⟨-, hin, hsc⟩
  · exact absurd rfl hd
  · cases hd
  · cases hd
  · cases hd
  · cases hd
  · exact ⟨hin, hsc⟩

/-- A command that answers a next state has ended (10_state.md R40). -/
theorem exec_command_ended {i : Instr} {s t : State} (hi : i.format = .cmd3) (hl : s.params.Legal)
    (hw : s.inLen < 2 ^ s.params.argw) (h : exec i s = .next t) :
    t.status.busy = false ∧ t.status.done = true ∧ (t.status.err = 0#3 ∨ ∃ f : TapFault, t.status = .faulted f) := by
  by_cases hd : i = .dec
  · subst hd
    exact State.scan_next_ended (State.Scanning.commandStart hw) (by simp) (by simp) (exec_dec_next h).2
  · rcases exec_next_cases hl hi hd h with ⟨f, -, rfl⟩ | ⟨bs, a, u, -, rfl, hp⟩
    · exact ⟨rfl, rfl, .inr ⟨f, rfl⟩⟩
    · exact ⟨rfl, rfl, .inl (by simp [hp.status])⟩

/-- Within the capacities of 70_reset_and_hazards.md R221 no command but `DEC` is refused. -/
theorem State.delivery_ne_refused {s : State} (hin : s.inLen ≤ s.params.inMax) (hn : s.nameLen ≤ s.params.nameMax)
    (hout : 21 ≤ s.params.outMax) (hsz : s.inLen ≤ 65533 → s.inLen + 25 ≤ s.params.outMax) (i : Instr)
    (r : Refusal) : s.delivery i ≠ .refused r := by
  have hsize : ¬ sizeExceeded s.inLen = true → s.inLen + 25 ≤ s.params.outMax := fun h =>
    hsz (Nat.not_lt.mp fun hlt => h (sizeExceeded_eq_true_iff.mpr hlt))
  intro h
  cases i with
  | csum => simp [State.delivery, Nat.not_lt.mpr hin] at h
  | encHdr =>
    simp only [State.delivery, if_neg (Nat.not_lt.mpr hn), if_neg (Nat.not_lt.mpr hout)] at h
    split at h <;> cases h
  | encData =>
    simp only [State.delivery, if_neg (Nat.not_lt.mpr hin)] at h
    split at h
    · cases h
    · rename_i hok
      have := hsize hok
      rw [if_neg (by omega)] at h
      cases h
  | encTap =>
    simp only [State.delivery, if_neg (Nat.not_lt.mpr hin), if_neg (Nat.not_lt.mpr hn)] at h
    split at h
    · cases h
    · split at h
      · cases h
      · rename_i hok
        rw [if_neg (Nat.not_lt.mpr (hsize hok))] at h
        cases h
  | _ => cases h

/-- Settles O32: a command that answers has ended, by `exec_command_ended`; within the capacities no delivery is refused, and
`DEC` ends by `State.scan_ends`. -/
theorem commandsEndIdleAndDone : Obligations.CommandsEndIdleAndDone := by
  intro i s hi hl hw
  refine ⟨fun t h => exec_command_ended hi hl hw h, fun hin hn hout hsz hroom => ?_⟩
  by_cases hd : i = .dec
  · subst hd
    obtain ⟨t, ht, -⟩ := State.scan_ends (n := s.inLen / 4 + 1) (State.Scanning.commandStart hw) (by simp) (by simp)
      (by simp) (by simpa using hroom) (by simp)
    exact ⟨t, (if_neg (Nat.not_lt.mpr hin)).trans ht⟩
  · have ha := exec_answers hl hi hd
    cases hdl : s.delivery i with
    | next d =>
      rw [hdl] at ha
      obtain ⟨u, hu, -⟩ := ha
      exact ⟨_, hu⟩
    | fault f =>
      rw [hdl] at ha
      exact ⟨_, ha⟩
    | refused r => exact absurd hdl (State.delivery_ne_refused hin hn hout hsz i r)

end Sys2Proof.Machine
end

section
/-! PROOF. No hidden state (10_state.md R34, 44_decode.md R167 (a)): a command's results are a function of the operands of
30_encoding.md R86; for `DEC`, two scans with the same bytes before them go alike. -/

namespace Sys2Proof.Machine

/-! ### Results that agree -/

/-- A fault leaves the same results in every state: its status, and nothing else (60_exceptions.md R186). -/
theorem SameResults.raise (s t : State) (f : TapFault) : SameResults (s.raise f) (t.raise f) := by
  constructor <;> simp [State.outBytes, State.records, Status.raised, Status.ended]

theorem State.SameFixed.outBytes {s t : State} (h : State.SameFixed s t) (ho : t.outLen = s.outLen) :
    t.outBytes = s.outBytes := by
  rw [State.outBytes, ho]
  exact h.memRead .out 0 s.outLen

theorem SameResults.commandEnd {s t : State} (h : SameResults s t) : SameResults s.commandEnd t.commandEnd where
  status := by simp [h.status]
  acc := h.acc
  out := h.out
  recCnt := h.recCnt
  records := h.records
  warnCnt := h.warnCnt

/-- What OUT holds of a command that has come to its end. -/
theorem State.Produced.outBytes {s u : State} {bs : List Byte} {a : Byte} (h : s.Produced u bs a) :
    u.outBytes = bs := by
  rw [State.outBytes, h.outLen]
  exact State.memRead_writeSeq h.fixed.outMem

theorem SameResults.of_produced {s u s' u' : State} {bs : List Byte} {a : Byte} (h : s.Produced u bs a)
    (h' : s'.Produced u' bs a) : SameResults u u' where
  status := h.status.trans h'.status.symm
  acc := h.acc.trans h'.acc.symm
  out := h.outBytes.trans h'.outBytes.symm
  recCnt := h.recCnt.trans h'.recCnt.symm
  records := by simp [State.records, h.recCnt, h'.recCnt]
  warnCnt := h.warnCnt.trans h'.warnCnt.symm

/-! ### Two scans with the same bytes before them -/

/-- The fault of a pass over bytes that are neither none nor begin with a frame (44_decode.md R168): MalformedBlock where a
whole head has a length below 2, else StreamTruncated. -/
def cutFault (rest : List Byte) : TapFault :=
  if 3 ≤ rest.length ∧ (u16le (rest.getD 0 0x00#8) (rest.getD 1 0x00#8)).toNat < 2 then .malformedBlock
  else .streamTruncated

/-- Bytes that begin with a frame. -/
def BeginsWithFrame (bs : List Byte) : Prop :=
  ∃ (f : Frame) (rest : List Byte), f.payload.length ≤ 65533 ∧ bs = f.bytes ++ rest

theorem State.rest_getD {s : State} {i : Nat} (h : s.cur + i < s.inLen) :
    s.rest.getD i 0x00#8 = s.byteAt .inp (s.cur + i) := by
  rw [List.getD_eq_getElem?_getD, s.rest_getElem? (by omega)]
  rfl

theorem State.scanPass_cut {s : State} (hs : s.Scanning) (h0 : s.cur < s.inLen) (hnf : ¬ BeginsWithFrame s.rest) :
    ∃ x : State, s.scanPass = .next (x.raise (cutFault s.rest)) := by
  have hw := hs.width
  by_cases h3 : s.cur + 3 ≤ s.inLen
  · have hL : u16le (s.rest.getD 0 0x00#8) (s.rest.getD 1 0x00#8) =
        u16le (s.byteAt .inp s.cur) (s.byteAt .inp (s.cur + 1)) := by
      rw [State.rest_getD (by omega), State.rest_getD (by omega)]
      rfl
    have hlen : 3 ≤ s.rest.length := by rw [State.rest_length]; omega
    rw [State.scanPass_eq_runBlock hw h3, cutFault, hL]
    by_cases h2 : (u16le (s.byteAt .inp s.cur) (s.byteAt .inp (s.cur + 1))).toNat < 2
    · rw [if_pos ⟨hlen, h2⟩]
      exact ⟨_, State.runBlock_lengthShort hw h3 h2⟩
    · have hshort : s.inLen < s.cur + 2 + (u16le (s.byteAt .inp s.cur) (s.byteAt .inp (s.cur + 1))).toNat := by
        by_contra hfit
        obtain ⟨f, hf, hr⟩ := State.rest_of_whole (Nat.not_lt.mp h2) (Nat.not_lt.mp hfit)
        exact hnf ⟨f, _, by have := BitVec.isLt (u16le (s.byteAt .inp s.cur) (s.byteAt .inp (s.cur + 1))); omega, hr⟩
      rw [if_neg fun h => h2 h.2]
      obtain ⟨c, hc, -⟩ := State.runBlock_bodyShort hw h3 (Nat.not_lt.mp h2) hshort
      exact ⟨_, hc⟩
  · have hlen : ¬ 3 ≤ s.rest.length := by rw [State.rest_length]; omega
    rw [cutFault, if_neg fun h => hlen h.1]
    rcases State.scanPass_headShort hw h0 (by omega) with ⟨h, -⟩ | ⟨h, -⟩
    · exact ⟨_, h⟩
    · exact ⟨_, h⟩

/-- Two scans under way that show the same results and have the same bytes before them, at the same offset. -/
structure State.ScansAlike (u v : State) : Prop where
  params  : u.params = v.params
  cur     : u.cur = v.cur
  rest    : u.rest = v.rest
  results : SameResults u v
  left    : u.Scanning
  right   : v.Scanning

theorem State.Scanning.cur_eq_inLen_iff {s : State} (hs : s.Scanning) : s.cur = s.inLen ↔ s.rest = [] := by
  have := hs.cursor
  rw [← List.length_eq_zero_iff, State.rest_length]
  omega

/-- A pass over a frame takes scans alike to scans alike. -/
theorem State.ScansAlike.scanPass_frame {u v : State} (h : u.ScansAlike v) (hf : u.recFull = false)
    (hb : BeginsWithFrame u.rest) :
    ∃ x y, u.scanPass = .next x ∧ v.scanPass = .next y ∧ x.ScansAlike y := by
  obtain ⟨f, rest, hp, hr⟩ := hb
  have hr' : v.rest = f.bytes ++ rest := h.rest.symm.trans hr
  have hf' : v.recFull = false := by
    rw [← hf, State.recFull, State.recFull, h.params, h.results.recCnt]
  obtain ⟨x, hx, hxs, hxf, hxc, hxr, hxn, hxrec, -, hxw, hxst, hxo, hxa, -⟩ := State.scanPass_frame h.left hf hp hr
  obtain ⟨y, hy, hys, hyf, hyc, hyr, hyn, hyrec, -, hyw, hyst, hyo, hya, -⟩ := State.scanPass_frame h.right hf' hp hr'
  refine ⟨x, y, hx, hy, ?_, ?_, hxr.trans hyr.symm, ?_, hxs, hys⟩
  · rw [hxf.params, hyf.params, h.params]
  · rw [hxc, hyc, h.cur]
  · constructor
    · rw [hxst, hyst, h.results.status, h.cur]
    · rw [hxa, hya, h.results.acc]
    · rw [hxf.outBytes hxo, hyf.outBytes hyo, h.results.out]
    · rw [hxn, hyn, h.results.recCnt]
    · rw [hxrec, hyrec, h.results.records, h.cur]
    · rw [hxw, hyw, h.results.warnCnt, h.cur]

/-- A pass of scans alike gives the same results, and scans alike where it goes on. -/
theorem State.ScansAlike.scanPass {u v x : State} (h : u.ScansAlike v) (hx : u.scanPass = .next x) :
    ∃ y, v.scanPass = .next y ∧ SameResults x y ∧ (x.status.busy = true → x.ScansAlike y) := by
  by_cases h0 : u.rest = []
  · have hu : u.cur = u.inLen := h.left.cur_eq_inLen_iff.mpr h0
    have hv : v.cur = v.inLen := h.right.cur_eq_inLen_iff.mpr (h.rest.symm.trans h0)
    rw [State.scanPass, if_pos hu] at hx
    cases hx
    exact ⟨_, by rw [State.scanPass, if_pos hv], h.results.commandEnd, fun hb => by simp at hb⟩
  by_cases hb : BeginsWithFrame u.rest
  · cases hf : u.recFull
    · obtain ⟨x', y, hx', hy, ha⟩ := h.scanPass_frame hf hb
      cases hx.symm.trans hx'
      exact ⟨y, hy, ha.results, fun _ => ha⟩
    · obtain ⟨f, rest, hp, hr⟩ := hb
      cases hx.symm.trans (State.scanPass_frame_of_recFull h.left.width hf hp hr)
  · have hu : u.cur < u.inLen := Nat.lt_of_le_of_ne h.left.cursor fun e => h0 (h.left.cur_eq_inLen_iff.mp e)
    have hv : v.cur < v.inLen := Nat.lt_of_le_of_ne h.right.cursor fun e =>
      h0 (h.rest.trans (h.right.cur_eq_inLen_iff.mp e))
    obtain ⟨a, ha⟩ := State.scanPass_cut h.left hu hb
    obtain ⟨b, hb'⟩ := State.scanPass_cut h.right hv (h.rest ▸ hb)
    cases hx.symm.trans ha
    refine ⟨_, hb', ?_, fun hbusy => by simp at hbusy⟩
    rw [h.rest]
    exact SameResults.raise a b _

theorem State.ScansAlike.scan {n : Nat} {u v t : State} (h : u.ScansAlike v) (ht : u.scan n = .next t) :
    ∃ w, v.scan n = .next w ∧ SameResults t w := by
  induction n generalizing u v with
  | zero =>
    cases ht
    exact ⟨v, rfl, h.results⟩
  | succ n ih =>
    cases hx : u.scanPass with
    | next x =>
      obtain ⟨y, hy, hr, hnext⟩ := h.scanPass hx
      cases hb : x.status.busy with
      | true =>
        rw [State.scan_succ_busy hx hb] at ht
        rw [State.scan_succ_busy hy (hr.status ▸ hb)]
        exact ih (hnext hb) ht
      | false =>
        rw [State.scan_succ_idle hx hb] at ht
        cases ht
        exact ⟨y, State.scan_succ_idle hy (hr.status ▸ hb), hr⟩
    | fault e =>
      rw [State.scan, hx] at ht
      cases ht
    | refused e =>
      rw [State.scan, hx] at ht
      cases ht

/-- From the command start, scans of the same input go alike. -/
theorem State.ScansAlike.commandStart {s u : State} (hp : s.params = u.params) (hw : s.inLen < 2 ^ s.params.argw)
    (hin : s.inBytes = u.inBytes) (hlen : s.inLen = u.inLen) : s.commandStart.ScansAlike u.commandStart where
  params := by simpa using hp
  cur := by simp
  rest := by rw [State.commandStart_rest, State.commandStart_rest, hin]
  results := by constructor <;> simp [State.outBytes, State.records, Status.started]
  left := State.Scanning.commandStart hw
  right := State.Scanning.commandStart (by rw [← hp, ← hlen]; exact hw)

/-! ### The commands -/

theorem inLen_eq_of_inBytes {s u : State} (h : s.inBytes = u.inBytes) : s.inLen = u.inLen := by
  rw [← s.inBytes_length, h, u.inBytes_length]

theorem nameLen_eq_of_nameBytes {s u : State} (h : s.nameBytes = u.nameBytes) : s.nameLen = u.nameLen := by
  rw [← s.nameBytes_length, h, u.nameBytes_length]

/-- What a command delivers depends on its operands of 30_encoding.md R86 alone. -/
theorem State.delivery_congr {i : Instr} {s u : State} (hp : s.params = u.params) (h : SameOperands i s u) :
    s.delivery i = u.delivery i := by
  cases i with
  | csum =>
    have hin : s.inBytes = u.inBytes := h
    simp only [State.delivery, hp, inLen_eq_of_inBytes hin, hin]
  | encHdr =>
    obtain ⟨hnm, hd, ha⟩ := h
    simp only [State.delivery, hp, nameLen_eq_of_nameBytes hnm, hnm, hd, ha]
  | encData =>
    have hin : s.inBytes = u.inBytes := h
    simp only [State.delivery, hp, inLen_eq_of_inBytes hin, hin]
  | encTap =>
    obtain ⟨hnm, ha, hin⟩ := h
    simp only [State.delivery, hp, nameLen_eq_of_nameBytes hnm, hnm, inLen_eq_of_inBytes hin, hin, ha]
  | _ => rfl

theorem format_of_sameOperands {i : Instr} {s u : State} (h : SameOperands i s u) : i.format = .cmd3 := by
  cases i with
  | blkIllegalLen0 _ => exact h.elim
  | blkIllegalLen1 _ => exact h.elim
  | blkHdr => exact h.elim
  | blkData _ => exact h.elim
  | blkOther _ _ => exact h.elim
  | _ => rfl

/-- Settles O52: `DEC` by scans that go alike, every other command by `State.delivery_congr`. -/
theorem resultsDependOnTheNamedOperandsAlone : Obligations.ResultsDependOnTheNamedOperandsAlone := by
  intro i s u t hp hl hw ho h
  have hi := format_of_sameOperands ho
  by_cases hd : i = .dec
  · subst hd
    have hin : s.inBytes = u.inBytes := ho
    have hlen := inLen_eq_of_inBytes hin
    obtain ⟨hcap, hsc⟩ := exec_dec_next h
    obtain ⟨w, hw', hr⟩ := (State.ScansAlike.commandStart hp hw hin hlen).scan hsc
    rw [hlen] at hw' hcap
    rw [hp] at hcap
    exact ⟨w, (if_neg (Nat.not_lt.mpr hcap)).trans hw', hr⟩
  · have ha := exec_answers (s := u) (hp ▸ hl) hi hd
    rw [← State.delivery_congr hp ho] at ha
    rcases exec_next_cases hl hi hd h with ⟨f, hdl, rfl⟩ | ⟨bs, a, x, hdl, rfl, hx⟩
    · rw [hdl] at ha
      exact ⟨_, ha, SameResults.raise _ _ f⟩
    · rw [hdl] at ha
      obtain ⟨y, hy, hyp⟩ := ha
      exact ⟨_, hy, (SameResults.of_produced hx hyp).commandEnd⟩

end Sys2Proof.Machine
end

section
/-! PROOF. The host port (10_state.md R20 to R26, 70_reset_and_hazards.md R216 to R218): what a host action can do, said once,
and the register map. -/

namespace Sys2Proof.Machine

/-! ### What a host action can do -/

/-- The reply and the count of free values: all that a host read writes (20_memory.md R58). -/
def State.replying (s : State) (r : Option HostReply) (n : Nat) : State := { s with reply := r, free := n }

theorem State.hostReadReg_form (s : State) (j : Nat) : ∃ r n, s.hostReadReg j = s.replying r n := by
  unfold State.hostReadReg
  split <;> exact ⟨_, _, rfl⟩

theorem State.hostReadRec_form (s : State) (i : Nat) : ∃ r n, s.hostReadRec i = s.replying r n := by
  unfold State.hostReadRec
  split <;> exact ⟨_, _, rfl⟩

theorem State.hostReadByte_form {s t : State} {sp : Space} {a : Nat} (h : s.hostReadByte sp a = .next t) :
    ∃ r n, t = s.replying r n := by
  cases sp <;> simp only [State.hostReadByte] at h <;> split at h <;> cases h <;> exact ⟨_, _, rfl⟩

/-- A write of a register but `CMD`: while `BUSY` it is ignored (R216); else one operand register holds the value cut to its
width, or, for the others, nothing changes (R20). -/
theorem State.writeReg_cases (s : State) (idx v : Nat) :
    s.writeReg idx v = s ∨
    s.status.busy = false ∧ (s.writeReg idx v = s.setADlen v ∨ s.writeReg idx v = s.setAAddr v ∨
      s.writeReg idx v = s.setInLen v ∨ s.writeReg idx v = s.setNameLen v) := by
  unfold State.writeReg
  split
  · exact .inl rfl
  · rename_i hb
    rw [Bool.not_eq_true] at hb
    split <;> simp [hb]

theorem State.hostAct_writeReg {idx : Nat} (h : idx ≠ 0) (s : State) (v : Nat) :
    s.hostAct (.writeReg idx v) = .next (s.writeReg idx v) := by
  cases idx with
  | zero => exact absurd rfl h
  | succ n => rfl

/-- What a host action that answers a next state has done: a reset; the command written to `CMD`; an operand register
written, the block idle; a byte of IN or of NAME written; or at most a reply. -/
theorem State.hostAct_cases {s t : State} {x : HostAction} (h : s.hostAct x = .next t) :
    (x = .reset ∧ t = s.hostReset) ∨
    (∃ v, x = .writeReg 0 v ∧ s.status.busy = false ∧ exec (decodeCode (BitVec.ofNat 3 v)) s = .next t) ∨
    (s.status.busy = false ∧ ∃ v, t = s.setADlen v ∨ t = s.setAAddr v ∨ t = s.setInLen v ∨ t = s.setNameLen v) ∨
    (∃ a b, x = .writeIn a b ∧ a < s.params.inMax ∧ t = (s.noteMoved a).putIn a b) ∨
    (∃ a b, x = .writeName a b ∧ a < s.params.nameMax ∧ t = s.putName a b) ∨
    ∃ r n, t = s.replying r n := by
  cases x with
  | reset =>
    cases h
    exact .inl ⟨rfl, rfl⟩
  | writeReg idx v =>
    by_cases h0 : idx = 0
    · subst h0
      have hw : s.writeCmd v = .next t := h
      unfold State.writeCmd at hw
      split at hw
      · cases hw
        exact .inr (.inr (.inr (.inr (.inr ⟨s.reply, s.free, rfl⟩))))
      · rename_i hb
        exact .inr (.inl ⟨v, rfl, Bool.not_eq_true _ ▸ hb, hw⟩)
    · rw [State.hostAct_writeReg h0] at h
      cases h
      rcases s.writeReg_cases idx v with he | ⟨hb, he | he | he | he⟩ <;> rw [he]
      · exact .inr (.inr (.inr (.inr (.inr ⟨s.reply, s.free, rfl⟩))))
      · exact .inr (.inr (.inl ⟨hb, v, .inl rfl⟩))
      · exact .inr (.inr (.inl ⟨hb, v, .inr (.inl rfl)⟩))
      · exact .inr (.inr (.inl ⟨hb, v, .inr (.inr (.inl rfl))⟩))
      · exact .inr (.inr (.inl ⟨hb, v, .inr (.inr (.inr rfl))⟩))
  | readReg j =>
    cases h
    exact .inr (.inr (.inr (.inr (.inr (s.hostReadReg_form j)))))
  | writeIn a b =>
    have hw : s.hostWriteIn a b = .next t := h
    unfold State.hostWriteIn at hw
    split at hw
    · cases hw
    · cases hw
      exact .inr (.inr (.inr (.inl ⟨a, b, rfl, by omega, rfl⟩)))
  | writeName a b =>
    have hw : s.hostWriteName a b = .next t := h
    unfold State.hostWriteName at hw
    split at hw
    · cases hw
    · cases hw
      exact .inr (.inr (.inr (.inr (.inl ⟨a, b, rfl, by omega, rfl⟩))))
  | readByte sp a => exact .inr (.inr (.inr (.inr (.inr (State.hostReadByte_form h)))))
  | readRec i =>
    cases h
    exact .inr (.inr (.inr (.inr (.inr (s.hostReadRec_form i)))))

/-- With a host action pending, the step is that action. -/
theorem step_of_host {s : State} {x : HostAction} {rest : List HostAction} (h : s.host = x :: rest) :
    step s = (s.setHost rest).hostAct x := by
  rw [step, State.stepOnce, h]

end Sys2Proof.Machine
end

section
/-! PROOF. The register map (10_state.md R20, R21, 70_reset_and_hazards.md R218): what a write of `CMD` runs, and what a read
returns. -/

namespace Sys2Proof.Machine

/-! ### `CMD` -/

/-- The code of a written value is the low three bits of its byte (R21). -/
theorem extractLsb'_ofNat_byte (v : Nat) : (BitVec.ofNat 8 v).extractLsb' 0 3 = BitVec.ofNat 3 v := by
  apply BitVec.eq_of_toNat_eq
  simp

theorem State.hostAct_writeCmd {s : State} (hb : s.status.busy = false) (v : Nat) :
    s.hostAct (.writeReg 0 v) = exec (decodeCode (BitVec.ofNat 3 v)) s := by
  show s.writeCmd v = _
  rw [State.writeCmd, hb]
  rfl

/-- Settles O40: the step is the pending write, and the code is the low three bits of its byte. -/
theorem stepRunsTheCommandWritten : Obligations.StepRunsTheCommandWritten := by
  intro s v rest b i hh hb hv hd
  subst hv
  cases hd
  rw [step_of_host hh, State.hostAct_writeCmd (s := s.setHost rest) hb, extractLsb'_ofNat_byte]
  rfl

/-! ### Reads -/

/-- What a read returns while the block is idle (R20), as a chain over the index. -/
theorem State.readReg_eq (s : State) (j : Nat) :
    s.readReg j =
      if j = 0 ∨ 10 ≤ j then 0 else if j = 1 then s.status.toByte.toNat else if j = 2 then s.aDlen
      else if j = 3 then s.aAddr else if j = 4 then s.inLen else if j = 5 then s.nameLen else if j = 6 then s.outLen
      else if j = 7 then s.recCnt else if j = 8 then s.warnCnt else s.acc.toNat := by
  by_cases h : 10 ≤ j
  · rw [if_pos (.inr h)]
    obtain ⟨k, rfl⟩ := Nat.exists_eq_add_of_le' h
    rfl
  · interval_cases j <;> rfl

theorem Status.toByte_toNat (st : Status) :
    st.toByte.toNat = st.busy.toNat + 2 * st.done.toNat + 4 * st.warn.toNat + 16 * st.err.toNat :=
  (statusWordLayout st).1

/-- A write of a register but `CMD`, the block idle, as a chain over the index. -/
theorem State.writeReg_eq {s : State} (hb : s.status.busy = false) (idx v : Nat) :
    s.writeReg idx v =
      if idx = 2 then s.setADlen v else if idx = 3 then s.setAAddr v else if idx = 4 then s.setInLen v
      else if idx = 5 then s.setNameLen v else s := by
  unfold State.writeReg
  rw [hb]
  split
  · contradiction
  · split <;> simp_all

/-- What a read returns after a write, the block idle: the value cut to its width at a writable register that was written,
else what it returned before. -/
theorem State.readReg_writeReg {s : State} (hb : s.status.busy = false) (idx v j : Nat) :
    (s.writeReg idx v).readReg j = if j = idx ∧ 2 ≤ idx ∧ idx ≤ 5 then s.fit v else s.readReg j := by
  by_cases hw : 2 ≤ idx ∧ idx ≤ 5
  · have hidx : idx = 2 ∨ idx = 3 ∨ idx = 4 ∨ idx = 5 := by omega
    by_cases hj : j = idx
    · rw [if_pos ⟨hj, hw⟩, State.writeReg_eq hb]
      subst hj
      rcases hidx with rfl | rfl | rfl | rfl <;> rfl
    · rw [if_neg fun h => hj h.1, State.writeReg_eq hb]
      rcases hidx with rfl | rfl | rfl | rfl <;> simp [State.readReg_eq, hj]
  · rw [if_neg fun h => hw h.2, State.writeReg_eq hb, if_neg (by omega), if_neg (by omega), if_neg (by omega),
      if_neg (by omega)]

theorem State.writeReg_status (s : State) (idx v : Nat) : (s.writeReg idx v).status = s.status := by
  rcases s.writeReg_cases idx v with h | ⟨-, h | h | h | h⟩ <;> rw [h] <;> rfl

theorem State.writeReg_host (s : State) (idx v : Nat) : (s.writeReg idx v).host = s.host := by
  rcases s.writeReg_cases idx v with h | ⟨-, h | h | h | h⟩ <;> rw [h] <;> rfl

/-- A read of a register, the block idle. -/
theorem State.hostReadReg_idle {s : State} (hb : s.status.busy = false) (j : Nat) :
    s.hostReadReg j = s.setReply (.word (s.readReg j)) := by
  rw [State.hostReadReg, hb]
  rfl

/-- Settles O44: two steps, the write and the read; then `State.readReg_writeReg`. -/
theorem registerMapReadsAndWrites : Obligations.RegisterMapReadsAndWrites := by
  intro s idx v j rest hb h0 hh
  have hstep := (step_of_host hh).trans (State.hostAct_writeReg h0 _ v)
  generalize hw : s.setHost (.readReg j :: rest) = w at hstep
  have hwb : w.status.busy = false := by rw [← hw]; exact hb
  have huh : (w.writeReg idx v).host = .readReg j :: rest := by rw [State.writeReg_host, ← hw]; rfl
  have hub : (w.writeReg idx v).status.busy = false := by rw [State.writeReg_status]; exact hwb
  have hread := (step_of_host huh).trans
    (congrArg Host.Outcome.next (State.hostReadReg_idle (s := (w.writeReg idx v).setHost rest) hub j))
  refine ⟨_, (run_succ_next 1 hstep).trans (run_succ_next 0 hread), rfl, ?_⟩
  have hvalue : ((w.writeReg idx v).setHost rest).readReg j =
      if j = idx ∧ 2 ≤ idx ∧ idx ≤ 5 then s.fit v else s.readReg j := by
    rw [← hw]
    exact State.readReg_writeReg (s := s.setHost (.readReg j :: rest)) hb idx v j
  have hstatus : s.status.toByte.toNat = s.status.done.toNat * 2 + s.status.warn.toNat * 4 + s.status.err.toNat * 16 := by
    rw [Status.toByte_toNat, hb, Bool.toNat_false]
    omega
  rw [State.setReply_reply, hvalue, State.readReg_eq, hstatus]
  rfl

/-- While `BUSY` a result register answers with a free value cut to its width (R218, log 6). -/
theorem State.hostReadReg_busy_result {s : State} {j : Nat} (hb : s.status.busy = true) (hj : 6 ≤ j ∧ j ≤ 9) :
    s.hostReadReg j = (s.setReply (.word (Config.freeWord s.free % 2 ^ s.regWidth j))).bumpFree := by
  rw [State.hostReadReg, hb, isResultReg, decide_eq_true hj]
  rfl

/-- While `BUSY` every other register answers as in an idle block. -/
theorem State.hostReadReg_busy_other {s : State} {j : Nat} (hj : ¬ (6 ≤ j ∧ j ≤ 9)) :
    s.hostReadReg j = s.setReply (.word (s.readReg j)) := by
  rw [State.hostReadReg, isResultReg, decide_eq_false hj, Bool.and_false]
  rfl

/-- Settles O59, by whether the register is a result register. -/
theorem registerReadsWhileBusy : Obligations.RegisterReadsWhileBusy := by
  intro s j rest hb hh
  have hstep : step s = .next ((s.setHost rest).hostReadReg j) := step_of_host hh
  by_cases hj : 6 ≤ j ∧ j ≤ 9
  · rw [State.hostReadReg_busy_result (s := s.setHost rest) hb hj] at hstep
    refine ⟨_, _, hstep, rfl, rfl, by omega, by omega, by omega, by omega, by omega, fun h => ?_, fun h => ?_, by omega⟩
    · rw [State.regWidth, if_neg (by omega)]
      exact Nat.mod_lt _ (Nat.two_pow_pos _)
    · subst h
      exact Nat.mod_lt _ (Nat.two_pow_pos 8)
  · rw [State.hostReadReg_busy_other (s := s.setHost rest) hj] at hstep
    have hstatus : s.status.toByte.toNat =
        1 + s.status.done.toNat * 2 + s.status.warn.toNat * 4 + s.status.err.toNat * 16 := by
      rw [Status.toByte_toNat, hb, Bool.toNat_true]
      omega
    refine ⟨_, _, hstep, rfl, rfl, ?_, ?_, ?_, ?_, ?_, by omega, by omega, fun h => ?_⟩
    · rintro rfl
      exact hstatus
    · rintro rfl
      rfl
    · rintro rfl
      rfl
    · rintro rfl
      rfl
    · rintro rfl
      rfl
    · rw [State.readReg_eq, if_pos h]

end Sys2Proof.Machine
end

section
/-! PROOF. The invariant: the reset state meets it, and every step keeps it. A pass of a scan keeps it by what it appends
(10_state.md R37, 44_decode.md R158), a command by what it delivers, a host action by what it writes. -/

namespace Sys2Proof.Machine

/-! ### The record of a frame -/

theorem trimFrom_le (nm : List Byte) (k : Nat) : trimFrom nm k ≤ k := by
  induction k with
  | zero => exact Nat.le_refl 0
  | succ k ih =>
    rw [trimFrom]
    split
    · omega
    · exact Nat.le_refl _

/-- `H_NLEN` is in 0..10 (10_state.md R33). -/
theorem unpack_hNlen_le_ten {p : List Byte} {h : Header} (hu : unpack p = some h) : h.hNlen.toNat ≤ 10 := by
  unfold unpack at hu
  simp only at hu
  split at hu
  · cases hu
    have := trimFrom_le (tenBytes fun i => p.getD (1 + i) 0x00#8).toList 10
    simp only [BitVec.toNat_ofNat]
    omega
  · cases hu

theorem Frame.headerShaped_iff {f : Frame} : f.headerShaped = true ↔ f.flag = 0x00#8 ∧ f.payload.length = 17 := by
  simp [Frame.headerShaped]

/-- The record of a frame keeps the rules of 10_state.md R37. -/
theorem Frame.record_ok {f : Frame} (off : Nat) (hp : f.payload.length ≤ 65533) : (f.record off).Ok := by
  have hlen : (BitVec.ofNat 16 (f.payload.length + 2)).toNat = f.payload.length + 2 := by
    rw [BitVec.toNat_ofNat]
    omega
  have hheader : ∀ h, (f.record off).header = some h → f.headerShaped = true ∧ unpack f.payload = some h := by
    intro h hh
    simp only [Frame.record] at hh
    split at hh
    · exact ⟨‹_›, hh⟩
    · cases hh
  have hshape : f.headerShaped = true →
      (f.record off).flag = 0x00#8 ∧ (f.record off).length = 0x0013#16 := by
    intro hs
    obtain ⟨hf, h17⟩ := Frame.headerShaped_iff.mp hs
    exact ⟨hf, by simp [Frame.record, h17]⟩
  constructor
  · simp only [Frame.record, hlen]
    omega
  · exact hlen.symm
  · intro h hh
    obtain ⟨hs, hu⟩ := hheader h hh
    exact ⟨(hshape hs).1, (hshape hs).2, by simp [Frame.record, hu]⟩
  · exact fun h hh => (hheader h hh).2
  · intro hw
    obtain ⟨hs, hu⟩ : f.headerShaped = true ∧ unpack f.payload = none := by simpa [Frame.record] using hw
    exact ⟨(hshape hs).1, (hshape hs).2, by simp [Frame.record, hu]⟩
  · exact fun h hh => unpack_hNlen_le_ten (hheader h hh).2

/-! ### Command start, end and fault entry -/

theorem State.Inv.idle_still {s : State} (h : s.Inv) (hb : s.status.busy = false) : s.moved = [] := h.movedOk.2 hb

theorem State.Inv.spacesWf {s : State} (h : s.Inv) : s.SpacesWf := h.memWf

theorem State.records_length_le (s : State) : s.records.length ≤ s.recCnt := by
  calc s.records.length ≤ (List.range s.recCnt).length := List.length_filterMap_le _ _
    _ = s.recCnt := List.length_range

theorem State.Inv.inLen_lt {s : State} (h : s.Inv) : s.inLen < 2 ^ s.params.argw := by
  obtain ⟨-, -, hin, -⟩ := h.widths
  exact hin

/-- A scan under way that meets the invariant. -/
theorem State.Inv.toScanning {s : State} (h : s.Inv) (hb : s.status.busy = true) : s.Scanning := by
  obtain ⟨-, -, -, -, hcur, -, hfour⟩ := h.scanning hb
  have hwarns : s.warnCnt ≤ s.recCnt := by
    rw [h.warnCount]
    exact List.countP_le_length.trans s.records_length_le
  exact ⟨h.inLen_lt, hcur, hb, hfour, hwarns⟩

/-- The end of a scan without a fault. -/
theorem State.Inv.commandEnd {s : State} (h : s.Inv) (hm : s.moved = []) : s.commandEnd.Inv where
  legal := h.legal
  widths := h.widths
  memWf := h.memWf
  errCode := h.errCode
  errClear := h.errClear
  warnIff := h.warnIff
  warnCount := h.warnCount
  recValid := h.recValid
  outValid := h.outValid
  nlenTen := h.nlenTen
  scanning := fun hb => by cases hb
  movedOk := ⟨h.movedOk.1, fun _ => hm⟩

/-- A fault clears every result (60_exceptions.md R186). -/
theorem State.Inv.raise {s : State} (h : s.Inv) (hm : s.moved = []) (f : TapFault) : (s.raise f).Inv := by
  obtain ⟨h1, h2, h3, h4, -, -, -, h8⟩ := h.widths
  have hpos := Nat.two_pow_pos s.params.argw
  exact {
    legal := by simpa using h.legal
    widths := by simp [h1, h2, h3, h4, h8]
    memWf := h.spacesWf.raise f
    errCode := by simpa using f.code_le_five
    errClear := by simp
    warnIff := by simp
    warnCount := by simp [State.records]
    recValid := by simp
    outValid := by simp
    nlenTen := by simpa using h.nlenTen
    scanning := by simp
    movedOk := by simp [hm] }

/-- What reading a block loads is free in an idle state, but for the cursor's width. -/
theorem State.Inv.reading {s : State} (h : s.Inv) (hb : s.status.busy = false) {c : Nat}
    (hc : c < 2 ^ s.params.argw) (l : U16) (f k : Byte) : (s.reading l f k c).Inv where
  legal := h.legal
  widths := by
    obtain ⟨h1, h2, h3, h4, h5, h6, h7, -⟩ := h.widths
    exact ⟨h1, h2, h3, h4, h5, h6, h7, hc⟩
  memWf := h.memWf
  errCode := h.errCode
  errClear := h.errClear
  warnIff := h.warnIff
  warnCount := h.warnCount
  recValid := h.recValid
  outValid := h.outValid
  nlenTen := h.nlenTen
  scanning := fun hb' => absurd (hb.symm.trans hb') (by decide)
  movedOk := h.movedOk

/-! ### A pass of the scan -/

/-- The record appended by a pass, and every record before it, keeps its rules. -/
theorem State.recValid_append {s t : State} {r : BlockRecord}
    (hv : ∀ i < s.recCnt, ∃ q, s.record? i = some q ∧ q.Ok) (hr : r.Ok) (hc : t.recCnt = s.recCnt + 1)
    (hm : t.recMem = Memory.write s.recMem s.recCnt r) : ∀ i < t.recCnt, ∃ q, t.record? i = some q ∧ q.Ok := by
  intro i hi
  by_cases he : i = s.recCnt
  · exact ⟨r, by rw [State.record?, hm, he, Memory.read?_write_same], hr⟩
  · obtain ⟨q, hq, hok⟩ := hv i (by omega)
    exact ⟨q, by rw [State.record?, hm, Memory.read?_write_other _ _ he]; exact hq, hok⟩

theorem State.Inv.scanPass_frame {s t : State} (h : s.Inv) (hb : s.status.busy = true) (hm : s.moved = [])
    {f : Frame} {rest : List Byte} (hp : f.payload.length ≤ 65533) (hr : s.rest = f.bytes ++ rest)
    (hf : s.recFull = false) (ht : s.scanPass = .next t) : t.Inv := by
  obtain ⟨u, hu, hus, hfix, hcur, -, hrc, hrec, hrm, hwc, hst, hout, hacc, hn⟩ :=
    State.scanPass_frame (h.toScanning hb) hf hp hr
  cases ht.symm.trans hu
  have hfit := (State.frameAt_of_rest hr).fits
  obtain ⟨hdone, herr, hout0, hacc0, hcu, hcap, hfour⟩ := h.scanning hb
  obtain ⟨h1, h2, h3, h4, h5, h6, h7, h8⟩ := h.widths
  have hbusy := hus.busy
  have hcw := hus.warns
  exact {
    legal := by rw [hfix.params]; exact h.legal
    widths := by
      rw [hfix.params, hfix.aDlen, hfix.aAddr, hfix.inLen, hfix.nameLen, hout]
      exact ⟨h1, h2, h3, h4, h5, by omega, by omega, by omega⟩
    memWf := h.spacesWf.scanPass ht
    errCode := by rw [hst]; exact h.errCode
    errClear := by
      intro he
      rw [hst] at he
      exact absurd herr he
    warnIff := by
      rw [hst, hwc]
      have := h.warnIff
      cases hw : (f.record s.cur).warn <;> simp [this]
    warnCount := by
      rw [hwc, hrec, List.countP_append, h.warnCount]
      cases hw : (f.record s.cur).warn <;> simp [hw]
    recValid := State.recValid_append h.recValid (Frame.record_ok s.cur hp) hrc hrm
    outValid := by rw [hout, hfix.outMem]; exact h.outValid
    nlenTen := hn h.nlenTen
    scanning := by
      intro _
      rw [hst, hout, hacc, hfix.inLen, hfix.params]
      exact ⟨hdone, herr, hout0, hacc0, by omega, hcap, by omega⟩
    movedOk := by
      rw [hfix.moved, hm]
      exact ⟨rfl, fun _ => rfl⟩ }

/-- A pass of a scan under way keeps the invariant. -/
theorem State.Inv.scanPass {s t : State} (h : s.Inv) (hb : s.status.busy = true) (hm : s.moved = [])
    (ht : s.scanPass = .next t) : t.Inv := by
  have hs := h.toScanning hb
  rcases State.scanPass_cases hs with ⟨-, hp⟩ | ⟨l, f, c, e, -, hc, hp⟩ | ⟨f, hlen, hrest, hfull⟩
  · cases ht.symm.trans hp
    exact h.commandEnd hm
  · cases ht.symm.trans hp
    exact (h.raise hm e).reading (by simp) (c := c) (Nat.lt_of_le_of_lt hc hs.width) l f s.chk
  · cases hf : s.recFull
    · exact h.scanPass_frame hb hm hlen hrest hf ht
    · cases ht.symm.trans (hfull hf)

/-- So does a step of it, over IN as the scan reads it: what the pass makes is settled, and what moved is forgotten when the
scan has ended (log 13). -/
theorem State.Inv.scanStep {s t : State} (h : s.Inv) (hb : s.status.busy = true) (ht : s.scanStep = .next t) :
    t.Inv := by
  have hs := h.toScanning hb
  obtain ⟨w1, w2, w3, w4⟩ := h.memWf
  have hstill : (s.scanned.withMoved []).Inv :=
    ⟨h.legal, h.widths, ⟨Memory.wf_writeCells s.moved w1, w2, w3, w4⟩, h.errCode, h.errClear, h.warnIff, h.warnCount,
      h.recValid, h.outValid, h.nlenTen, h.scanning, rfl, fun _ => rfl⟩
  rw [State.scanStep_eq_scanPass hs.width hs.cursor] at ht
  cases hp : s.scanned.scanPass with
  | next u =>
    rw [hp] at ht
    cases ht
    have hpass : (s.scanned.withMoved []).scanPass = .next (u.withMoved []) := by
      rw [State.scanPass_withMoved, hp]
      rfl
    have hu : (u.withMoved []).Inv := hstill.scanPass hb rfl hpass
    obtain ⟨-, x2, x3, x4⟩ := hu.memWf
    refine ⟨hu.legal, hu.widths, ⟨w1, x2, x3, x4⟩, hu.errCode, hu.errClear, hu.warnIff, hu.warnCount, hu.recValid,
      hu.outValid, hu.nlenTen, hu.scanning, ?_, fun hi => by rw [State.settle_moved]; exact if_neg (by simpa using hi)⟩
    rw [State.settle_moved]
    split
    · exact h.movedOk.1
    · rfl
  | fault e =>
    rw [hp] at ht
    cases ht
  | refused e =>
    rw [hp] at ht
    cases ht

/-! ### The commands -/

theorem State.Inv.commandStart {s : State} (h : s.Inv) (hb : s.status.busy = false) (hin : s.inLen ≤ s.params.inMax) :
    s.commandStart.Inv := by
  obtain ⟨h1, h2, h3, h4, -, -, -, -⟩ := h.widths
  exact {
    legal := by simpa using h.legal
    widths := by simp [h1, h2, h3, h4]
    memWf := h.spacesWf.commandStart
    errCode := by simp
    errClear := by simp
    warnIff := by simp
    warnCount := by simp [State.records]
    recValid := by simp
    outValid := by simp
    nlenTen := by simpa using h.nlenTen
    scanning := by simp [hin]
    movedOk := by simp [h.idle_still hb] }

theorem State.Inv.produced {s u : State} {bs : List Byte} {a : Byte} (h : s.Inv) (hb : s.status.busy = false)
    (hp : s.Produced u bs a) (hwf : u.commandEnd.SpacesWf) : u.commandEnd.Inv := by
  obtain ⟨h1, h2, h3, h4, -, -, -, -⟩ := h.widths
  have hf := hp.fixed
  have hmoved : u.moved = [] := hf.moved.trans (h.idle_still hb)
  have houtMem : u.outMem = Memory.writeSeq s.outMem 0 bs := hf.outMem
  exact {
    legal := by simpa [hf.params] using h.legal
    widths := by
      simp [hf.params, hf.aDlen, hf.aAddr, hf.inLen, hf.nameLen, hp.outLen, hp.recCnt, hp.warnCnt, hp.cur, h1, h2, h3,
        h4, hp.fits]
    memWf := hwf
    errCode := by simp [hp.status]
    errClear := by simp [hp.status]
    warnIff := by simp [hp.status, hp.warnCnt]
    warnCount := by simp [State.records, hp.recCnt, hp.warnCnt]
    recValid := by simp [hp.recCnt]
    outValid := by
      intro i hi
      have hi' : i < bs.length := by simpa [hp.outLen] using hi
      have := Memory.read?_writeSeq s.outMem 0 bs hi'
      rw [Nat.zero_add] at this
      simp [houtMem, this]
    nlenTen := by simpa [hp.hNlen] using h.nlenTen
    scanning := by simp
    movedOk := by simp [hmoved] }

/-- The fault of a command raised at its start, from the idle state before it. -/
theorem State.commandStart_raise_eq (s : State) (f : TapFault) :
    s.commandStart.raise f = (s.raise f).reading s.len s.flag s.chk (s.fit 0) := rfl

/-- Every command keeps the invariant. -/
theorem State.Inv.exec_command {i : Instr} {s t : State} (h : s.Inv) (hb : s.status.busy = false)
    (hi : i.format = .cmd3) (ht : exec i s = .next t) : t.Inv := by
  have hm := h.idle_still hb
  by_cases hd : i = .dec
  · subst hd
    obtain ⟨hin, hsc⟩ := exec_dec_next ht
    have hscan : t.Inv ∧ t.moved = [] :=
      State.scan_induction (P := fun u => u.Inv ∧ u.moved = [])
        (fun _ _ hu hub hp => ⟨hu.1.scanPass hub hu.2 hp, (State.SameFixed.scanPass hp).moved.trans hu.2⟩)
        ⟨h.commandStart hb hin, by simpa using hm⟩ (by simp) hsc
    exact hscan.1
  · rcases exec_next_cases h.legal hi hd ht with ⟨f, -, rfl⟩ | ⟨bs, a, u, -, rfl, hp⟩
    · rw [State.commandStart_raise_eq]
      exact (h.raise hm f).reading (by simp) (by simp) s.len s.flag s.chk
    · exact h.produced hb hp (h.spacesWf.exec ht)

/-! ### The host's actions -/

theorem State.Inv.setHost {s : State} (h : s.Inv) (l : List HostAction) : (s.setHost l).Inv :=
  ⟨h.legal, h.widths, h.memWf, h.errCode, h.errClear, h.warnIff, h.warnCount, h.recValid, h.outValid, h.nlenTen,
    h.scanning, h.movedOk⟩

theorem State.Inv.replying {s : State} (h : s.Inv) (r : Option HostReply) (n : Nat) : (s.replying r n).Inv :=
  ⟨h.legal, h.widths, h.memWf, h.errCode, h.errClear, h.warnIff, h.warnCount, h.recValid, h.outValid, h.nlenTen,
    h.scanning, h.movedOk⟩

/-- The reset values, under any legal parameters: `A_ADDR` 0x8000 needs 16 bits (00_scope.md R9, 10_state.md R42). -/
theorem State.Inv.hostReset {s : State} (hl : s.params.Legal) : s.hostReset.Inv where
  legal := hl
  widths := by
    have haddr : 0x8000 < 2 ^ s.params.argw := lt_width_of_legal hl (by decide)
    have hpos := Nat.two_pow_pos s.params.argw
    exact ⟨hpos, haddr, hpos, hpos, hpos, hpos, hpos, hpos⟩
  memWf := ⟨rfl, rfl, rfl, rfl⟩
  errCode := Nat.zero_le 5
  errClear := fun he => absurd rfl he
  warnIff := ⟨fun hw => (by cases hw), fun hw => absurd hw (Nat.lt_irrefl 0)⟩
  warnCount := rfl
  recValid := fun i hi => absurd hi (Nat.not_lt_zero i)
  outValid := fun i hi => absurd hi (Nat.not_lt_zero i)
  nlenTen := Nat.zero_le 10
  scanning := fun hb => by cases hb
  movedOk := ⟨rfl, fun _ => rfl⟩

/-- Operand registers written while the block is idle: only their widths are asked for. -/
theorem State.Inv.setOperand {s t : State} (h : s.Inv) (hb : s.status.busy = false) {v : Nat}
    (ht : t = s.setADlen v ∨ t = s.setAAddr v ∨ t = s.setInLen v ∨ t = s.setNameLen v) : t.Inv := by
  obtain ⟨h1, h2, h3, h4, hrest⟩ := h.widths
  have hv := s.fit_lt v
  have hidle : ∀ {P : Prop}, s.status.busy = true → P := fun hb' => absurd (hb.symm.trans hb') (by decide)
  rcases ht with rfl | rfl | rfl | rfl
  · exact { h with widths := ⟨hv, h2, h3, h4, hrest⟩, scanning := hidle }
  · exact { h with widths := ⟨h1, hv, h3, h4, hrest⟩, scanning := hidle }
  · exact { h with widths := ⟨h1, h2, hv, h4, hrest⟩, scanning := hidle }
  · exact { h with widths := ⟨h1, h2, h3, hv, hrest⟩, scanning := hidle }

theorem State.Inv.putName {s : State} (h : s.Inv) (a : Nat) (b : Byte) : (s.putName a b).Inv :=
  { h with memWf := h.spacesWf.putName a b }

/-- A byte of IN written, the block idle or not. -/
theorem State.Inv.putIn_noteMoved {s : State} (h : s.Inv) (a : Nat) (b : Byte) : ((s.noteMoved a).putIn a b).Inv := by
  obtain ⟨m, n, he, hidle, hbusy⟩ := s.noteMoved_form a
  have hm : Memory.wf m = true ∧ (s.status.busy = false → m = []) := by
    cases hb : s.status.busy
    · rw [(hidle hb).1]
      exact ⟨h.movedOk.1, fun _ => h.movedOk.2 hb⟩
    · rw [(hbusy hb).1]
      exact ⟨Memory.wf_write a _ h.movedOk.1, fun hi => by cases hi⟩
  rw [he]
  exact { h with memWf := h.spacesWf.putIn a b, movedOk := hm }

/-- Every host action keeps the invariant. -/
theorem State.Inv.hostAct {s t : State} {x : HostAction} (h : s.Inv) (ht : s.hostAct x = .next t) : t.Inv := by
  rcases State.hostAct_cases ht with ⟨-, rfl⟩ | ⟨v, -, hb, he⟩ | ⟨hb, v, hv⟩ | ⟨a, b, -, -, rfl⟩ | ⟨a, b, -, -, rfl⟩ |
    ⟨r, n, rfl⟩
  · exact State.Inv.hostReset h.legal
  · exact h.exec_command hb (decodeCode_format _) he
  · exact h.setOperand hb hv
  · exact h.putIn_noteMoved a b
  · exact h.putName a b
  · exact h.replying r n

/-! ### The step -/

/-- Settles O54: by what a step is, a host action, a pass of the scan under way, or nothing. -/
theorem stepKeepsTheInvariant : Obligations.StepKeepsTheInvariant := by
  intro s t h ht
  rcases step_cases s with ⟨x, rest, -, hx⟩ | ⟨-, hb, hx⟩ | ⟨-, -, hx⟩
  · exact (h.setHost rest).hostAct (hx.symm.trans ht)
  · exact h.scanStep hb (hx.symm.trans ht)
  · cases hx.symm.trans ht
    exact h

/-- Settles O53: a reset of the reset state is the reset state but for the model's own count of resets. -/
theorem resetMeetsTheInvariant : Obligations.ResetMeetsTheInvariant := by
  have h : State.reset.hostReset.Inv := State.Inv.hostReset (by decide)
  exact { h with }

/-- Settles O50: of the things a step can do only a command touches `BUSY` of an idle block, and it has ended. -/
theorem idleStaysIdle : Obligations.IdleStaysIdle := by
  intro s t h hb ht
  rcases step_cases s with ⟨x, rest, -, hx⟩ | ⟨-, hb', -⟩ | ⟨-, -, hx⟩
  · rcases State.hostAct_cases (hx.symm.trans ht) with ⟨-, rfl⟩ | ⟨v, -, -, he⟩ | ⟨-, v, hv⟩ | ⟨a, b, -, -, rfl⟩ |
      ⟨a, b, -, -, rfl⟩ | ⟨r, n, rfl⟩
    · rfl
    · exact (exec_command_ended (decodeCode_format _) (h.setHost rest).legal (h.setHost rest).inLen_lt he).1
    · rcases hv with rfl | rfl | rfl | rfl <;> exact hb
    · obtain ⟨m, n, he, -⟩ := (s.setHost rest).noteMoved_form a
      rw [he]
      exact hb
    · exact hb
    · exact hb
  · exact absurd (hb.symm.trans hb') (by decide)
  · cases hx.symm.trans ht
    exact hb

end Sys2Proof.Machine
end

section
/-! PROOF. A scan ends whatever the host writes into its input (70_reset_and_hazards.md R217, R224): the writes pass one by
one and leave the scan where it was; the blocks then end it, and what moved is forgotten (logs 8, 9 and 13). -/

namespace Sys2Proof.Machine

/-! ### The writes -/

/-- What a write leaves to read, with `d` for an offset never written. -/
theorem Memory.getD_read?_write {α : Type} (m : List (Nat × α)) (c a : Nat) (v d : α) :
    (Memory.read? (Memory.write m c v) a).getD d = if c = a then v else (Memory.read? m a).getD d := by
  rw [Memory.read?_write]
  by_cases h : a = c
  · rw [if_pos h, if_pos h.symm]
    rfl
  · rw [if_neg h, if_neg (Ne.symm h)]

theorem State.byteAt_putIn (s : State) (c : Nat) (b : Byte) (sp : Space) (a : Nat) :
    (s.putIn c b).byteAt sp a = if sp = .inp ∧ c = a then b else s.byteAt sp a := by
  cases sp with
  | inp =>
    simp only [true_and]
    exact Memory.getD_read?_write s.inMem c a b _
  | name => rfl
  | out => rfl

theorem State.byteAt_putName (s : State) (c : Nat) (b : Byte) (sp : Space) (a : Nat) :
    (s.putName c b).byteAt sp a = if sp = .name ∧ c = a then b else s.byteAt sp a := by
  cases sp with
  | inp => rfl
  | name =>
    simp only [true_and]
    exact Memory.getD_read?_write s.nameMem c a b _
  | out => rfl

/-- A host write of a byte that IN or NAME has. -/
def InputWrite (p : Config.Params) (x : HostAction) : Prop :=
  (∃ a b, x = .writeIn a b ∧ a < p.inMax) ∨ (∃ a b, x = .writeName a b ∧ a < p.nameMax)

/-- `t` is `s` after host writes of IN and NAME: the command, its stream and its cursor are where they were, and each byte
is the last one written there. -/
structure State.Written (s t : State) (xs : List HostAction) : Prop where
  params : t.params = s.params
  status : t.status = s.status
  inLen  : t.inLen = s.inLen
  cur    : t.cur = s.cur
  bytes  : ∀ sp a, t.byteAt sp a = lastWritten sp a (s.byteAt sp a) xs

/-- One write, as a step. -/
theorem step_inputWrite {s : State} {x : HostAction} {rest : List HostAction} (hh : s.host = x :: rest)
    (hx : InputWrite s.params x) : ∃ t, step s = .next t ∧ t.host = rest ∧ s.Written t [x] := by
  rcases hx with ⟨a, b, rfl, ha⟩ | ⟨a, b, rfl, ha⟩
  · obtain ⟨m, n, he, -⟩ := (s.setHost rest).noteMoved_form a
    refine ⟨((s.setHost rest).noteMoved a).putIn a b, (step_of_host hh).trans (if_neg (Nat.not_le.mpr ha)), ?_, ?_⟩
    · rw [he]
      rfl
    · rw [he]
      exact ⟨rfl, rfl, rfl, rfl, State.byteAt_putIn _ a b⟩
  · exact ⟨(s.setHost rest).putName a b, (step_of_host hh).trans (if_neg (Nat.not_le.mpr ha)), rfl,
      rfl, rfl, rfl, rfl, State.byteAt_putName _ a b⟩

theorem lastWritten_cons (sp : Space) (a : Nat) (v : Byte) (x : HostAction) (xs : List HostAction) :
    lastWritten sp a v (x :: xs) = lastWritten sp a (lastWritten sp a v [x]) xs := by
  cases x <;> rfl

theorem State.Written.cons {s t u : State} {x : HostAction} {xs : List HostAction} (h : s.Written t [x])
    (k : t.Written u xs) : s.Written u (x :: xs) where
  params := k.params.trans h.params
  status := k.status.trans h.status
  inLen := k.inLen.trans h.inLen
  cur := k.cur.trans h.cur
  bytes := fun sp a => by rw [k.bytes, h.bytes, ← lastWritten_cons]

/-- The pending writes are taken first, one a step (log 8). -/
theorem run_inputWrites {xs : List HostAction} {s : State} (h : s.Inv) (hh : s.host = xs)
    (hx : ∀ x ∈ xs, InputWrite s.params x) (k : Nat) :
    ∃ t, Host.Core.run Sys2Proof.core (xs.length + k) s = Host.Core.run Sys2Proof.core k t ∧ t.host = [] ∧
      s.Written t xs ∧ t.Inv := by
  induction xs generalizing s with
  | nil => exact ⟨s, by rw [List.length_nil, Nat.zero_add], hh, ⟨rfl, rfl, rfl, rfl, fun _ _ => rfl⟩, h⟩
  | cons x xs ih =>
    obtain ⟨t, ht, hth, hw⟩ := step_inputWrite hh (hx x List.mem_cons_self)
    obtain ⟨u, hu, huh, hwu, hinv⟩ := ih (stepKeepsTheInvariant s t h ht) hth fun y hy =>
      hw.params.symm ▸ hx y (List.mem_cons_of_mem x hy)
    refine ⟨u, ?_, huh, hw.cons hwu, hinv⟩
    rw [List.length_cons, Nat.add_right_comm, run_succ_next _ ht, hu]

/-! ### The blocks -/

/-- What every step keeps, every run keeps. -/
theorem State.Inv.run {n : Nat} {s t : State} (h : s.Inv)
    (ht : Host.Core.run Sys2Proof.core n s = .next t) : t.Inv := by
  induction n generalizing s with
  | zero =>
    cases ht
    exact h
  | succ n ih =>
    cases hs : step s with
    | next u => exact ih (stepKeepsTheInvariant s u h hs) ((run_succ_next n hs).symm.trans ht)
    | fault e => cases (run_succ_fault n hs).symm.trans ht
    | refused e => cases (run_succ_refused n hs).symm.trans ht

/-- Settled, no byte that the host reads has changed. -/
theorem State.settle_byteAt {s t : State} (hf : State.SameFixed s.scanned t) (sp : Space) (a : Nat) :
    (s.settle t).byteAt sp a = s.byteAt sp a := by
  have he : (s.settle t).epoch = s.epoch := hf.epoch
  refine State.byteAt_congr ?_ he a
  cases sp with
  | inp => rfl
  | name => exact hf.nameMem
  | out => exact hf.outMem

/-- A scan under way with no host action to come ends within the blocks that fit behind the cursor (44_decode.md R158). -/
theorem run_scan_ends {s : State} (h : s.Inv) (hb : s.status.busy = true) (hh : s.host = [])
    (hroom : ∀ m, s.params.recMax = some m → s.inLen / 4 ≤ m) :
    ∃ t, Host.Core.run Sys2Proof.core ((s.inLen - s.cur) / 4 + 1) s = .next t ∧
      t.status.busy = false ∧ t.status.done = true ∧
      (t.status.err = 0#3 ∨ t.status = .faulted .streamTruncated ∨ t.status = .faulted .malformedBlock) ∧
      t.Inv ∧ t.host = [] ∧ t.inLen = s.inLen ∧ ∀ sp a, t.byteAt sp a = s.byteAt sp a := by
  have hs := h.toScanning hb
  obtain ⟨-, herr, hout, hacc, hcur, -, hfour⟩ := h.scanning hb
  obtain ⟨u, hu, hfix, hidle, hdone, hres, -⟩ := State.scan_ends (n := (s.inLen - s.cur) / 4 + 1) hs.scanned herr hout
    hacc (fun m hm => by
      have hm' := hroom m hm
      show s.recCnt + (s.inLen - s.cur) / 4 ≤ m
      omega) (Nat.lt_succ_self _)
  have hrun := run_scan (n := (s.inLen - s.cur) / 4 + 1) hh hs
  rw [hu] at hrun
  exact ⟨s.settle u, hrun, hidle, hdone, hres, h.run hrun, hfix.host.trans hh, hfix.inLen, State.settle_byteAt hfix⟩

/-- Settles O57: the pending writes, by induction over them, then the blocks. -/
theorem scanEndsThoughInputMoves : Obligations.ScanEndsThoughInputMoves := by
  intro s h hb hx hroom
  obtain ⟨u, hu, huh, hw, hinv⟩ := run_inputWrites h rfl hx ((s.inLen - s.cur) / 4 + 1)
  obtain ⟨t, ht, hidle, hdone, hres, htinv, hth, hlen, hbytes⟩ :=
    run_scan_ends hinv (hw.status ▸ hb) huh (by rw [hw.params, hw.inLen]; exact hroom)
  rw [hw.inLen, hw.cur] at ht
  exact ⟨t, (Nat.add_assoc _ _ _ ▸ hu).trans ht, hidle, hdone, hres, htinv, htinv.idle_still hidle, hth,
    hlen.trans hw.inLen, fun sp a => (hbytes sp a).trans (hw.bytes sp a)⟩

end Sys2Proof.Machine
end

section
/-! PROOF. What instructions write of the spaces (20_memory.md R53, R54, R59): only the encoders OUT, below the `OUT_LEN`
they leave; only the decoder REC, where it appends; and so a command repeated finds its operands again (R58). -/

namespace Sys2Proof.Machine

/-! ### OUT -/

/-- An instruction that is no encoder leaves the fixed part of the state, OUT with it. -/
theorem exec_sameFixed_of_not_encoder {i : Instr} {s t : State} (h1 : i ≠ .encHdr) (h2 : i ≠ .encData)
    (h3 : i ≠ .encTap) (h : exec i s = .next t) : State.SameFixed s t := by
  cases hi : i.format with
  | framedBlock =>
    obtain ⟨len, flag, he⟩ := exec_block hi s
    exact State.SameFixed.runBlock (he.symm.trans h)
  | cmd3 =>
    rcases exec_command_cases hi h with ⟨-, -, f, rfl⟩ | ⟨-, -, rfl⟩ | ⟨hd, -⟩ | ⟨hd | hd, -⟩ | ⟨-, -, hsc⟩
    · exact (State.SameFixed.commandStart s).trans (State.SameFixed.raise _ f)
    · constructor <;> simp
    · exact absurd hd h2
    · exact absurd hd h1
    · exact absurd hd h3
    · exact (State.SameFixed.commandStart s).trans (State.SameFixed.scan (by simp) hsc)

/-- Of OUT only the bytes below `OUT_LEN` have been written. -/
theorem State.Produced.byteAt_out_above {s u : State} {bs : List Byte} {a : Byte} (h : s.Produced u bs a) {x : Nat}
    (hx : u.outLen ≤ x) : u.byteAt .out x = s.byteAt .out x := by
  have hlen : 0 + bs.length ≤ x := by
    rw [Nat.zero_add, ← h.outLen]
    exact hx
  rw [h.fixed.byteAt .out x]
  simp only [State.byteAt, State.cells, Memory.read?_writeSeq_outside s.outMem bs (.inr hlen)]

/-- A command but `DEC` leaves every byte of OUT at or above the `OUT_LEN` it leaves. -/
theorem exec_byteAt_out_above {i : Instr} {s t : State} (hl : s.params.Legal) (hi : i.format = .cmd3) (hd : i ≠ .dec)
    (h : exec i s = .next t) {x : Nat} (hx : t.outLen ≤ x) : t.byteAt .out x = s.byteAt .out x := by
  rcases exec_next_cases hl hi hd h with ⟨f, -, rfl⟩ | ⟨bs, a, u, -, rfl, hp⟩
  · exact ((State.SameFixed.commandStart s).trans (State.SameFixed.raise _ f)).byteAt .out x
  · exact ((State.SameFixed.commandEnd u).byteAt .out x).trans (hp.byteAt_out_above hx)

/-- Settles O36: what is no encoder keeps OUT whole; an encoder has written from 0 up to the `OUT_LEN` it leaves. -/
theorem onlyEncodersWriteOut : Obligations.OnlyEncodersWriteOut := by
  intro i s t hl h
  refine ⟨fun h1 h2 h3 a => (exec_sameFixed_of_not_encoder h1 h2 h3 h).byteAt .out a, fun hi a ha => ?_⟩
  rcases hi with rfl | rfl | rfl <;> exact exec_byteAt_out_above hl rfl (by decide) h ha

/-! ### REC -/

theorem State.record?_of_recMem {s t : State} (h : t.recMem = s.recMem) (k : Nat) : t.record? k = s.record? k :=
  congrArg (fun m => Memory.read? m k) h

/-- A command but `DEC` writes no record. -/
theorem exec_recMem {i : Instr} {s t : State} (hl : s.params.Legal) (hi : i.format = .cmd3) (hd : i ≠ .dec)
    (h : exec i s = .next t) : t.recMem = s.recMem := by
  rcases exec_next_cases hl hi hd h with ⟨f, -, rfl⟩ | ⟨bs, a, u, -, rfl, hp⟩
  · simp
  · exact hp.recMem

/-- A block writes no record but the one at `REC_CNT`. -/
theorem State.runBlock_record?_of_ne {s t : State} {len : U16} {flag : Byte} {parse : Bool} {k : Nat}
    (hk : k ≠ s.recCnt) (ht : s.runBlock len flag parse = .next t) : t.record? k = s.record? k := by
  rcases State.runBlock_cases s len flag parse with ⟨l, f, c, n, ⟨e, -, h⟩ | ⟨o, p, h⟩⟩
  · cases ht.symm.trans h
    exact State.record?_of_recMem (State.raise_recMem _ e) k
  · rcases State.recordBlock_cases (s.reading l f c n) parse o p with
      ⟨-, hr⟩ | ⟨-, u, hu, -, -, -, -, -, -, -, -, hrm, -⟩
    · cases (ht.symm.trans h).trans hr
    · cases (ht.symm.trans h).trans hu
      rw [State.record?, hrm]
      exact Memory.read?_write_other _ _ hk

/-- A pass of a scan under way writes no record at or above `floor(IN_LEN / 4)` (44_decode.md R158): the block it passes
has four bytes at least, and so has each recorded before it. -/
theorem State.scanPass_record?_above {s t : State} {k : Nat} (hs : s.Scanning) (hk : s.inLen / 4 ≤ k)
    (ht : s.scanPass = .next t) : t.record? k = s.record? k := by
  rcases State.scanPass_cases hs with ⟨-, hp⟩ | ⟨l, f, c, e, -, -, hp⟩ | ⟨f, hlen, hrest, hfull⟩
  · cases ht.symm.trans hp
    rfl
  · cases ht.symm.trans hp
    exact State.record?_of_recMem (State.raise_recMem _ e) k
  · cases hf : s.recFull
    · obtain ⟨u, hu, -, -, -, -, -, -, hrm, -⟩ := State.scanPass_frame hs hf hlen hrest
      cases ht.symm.trans hu
      have hfit := (State.frameAt_of_rest hrest).fits
      have hfour := hs.records
      rw [State.record?, hrm]
      exact Memory.read?_write_other _ _ (by omega)
    · cases ht.symm.trans (hfull hf)

/-- Nor does the whole scan. -/
theorem State.scan_record?_above {n k : Nat} {s t : State} (hs : s.Scanning) (hk : s.inLen / 4 ≤ k)
    (ht : s.scan n = .next t) : t.record? k = s.record? k := by
  obtain ⟨-, -, hkept⟩ : (t.status.busy = true → t.Scanning) ∧ t.inLen = s.inLen ∧ t.record? k = s.record? k :=
    State.scan_induction
      (P := fun u => (u.status.busy = true → u.Scanning) ∧ u.inLen = s.inLen ∧ u.record? k = s.record? k)
      (fun u v ⟨hu, hin, hrec⟩ hb hp =>
        ⟨(hu hb).scanPass hp, (State.SameFixed.scanPass hp).inLen.trans hin,
          (State.scanPass_record?_above (hu hb) (hin ▸ hk) hp).trans hrec⟩)
      ⟨fun _ => hs, rfl, rfl⟩ hs.busy ht
  exact hkept

/-- Settles O37, by the three kinds of instruction. -/
theorem onlyDecodingWritesRecords : Obligations.OnlyDecodingWritesRecords := by
  intro i s t hl hw h
  refine ⟨fun hi hd k => State.record?_of_recMem (exec_recMem hl hi hd h) k, ?dec, fun hi k hk => ?block⟩
  case dec =>
    rintro rfl k hk
    have hscan := State.scan_record?_above (k := k) (State.Scanning.commandStart hw) (by simpa using hk)
      (exec_dec_next h).2
    exact hscan.trans (State.record?_of_recMem s.commandStart_recMem k)
  case block =>
    obtain ⟨len, flag, he⟩ := exec_block hi s
    exact State.runBlock_record?_of_ne hk (he.symm.trans h)

/-! ### A command repeated -/

/-- An instruction leaves a command its operands (30_encoding.md R86). -/
theorem exec_sameOperands {i : Instr} {s t : State} (hi : i.format = .cmd3) (h : exec i s = .next t) :
    SameOperands i s t := by
  have hf := exec_sameFixed h
  have hin : s.inBytes = t.inBytes := by
    rw [State.inBytes, State.inBytes, hf.inLen, hf.memRead .inp]
    rfl
  have hnm : s.nameBytes = t.nameBytes := by
    rw [State.nameBytes, State.nameBytes, hf.nameLen, hf.memRead .name]
    rfl
  cases i with
  | csum => exact hin
  | encHdr => exact ⟨hnm, hf.aDlen.symm, hf.aAddr.symm⟩
  | encData => exact hin
  | encTap => exact ⟨hnm, hf.aAddr.symm, hin⟩
  | dec => exact hin
  | reserved0 => trivial
  | reserved6 => trivial
  | reserved7 => trivial
  | blkIllegalLen0 _ => cases hi
  | blkIllegalLen1 _ => cases hi
  | blkHdr => cases hi
  | blkData _ => cases hi
  | blkOther _ _ => cases hi

/-- Settles O51: a command keeps its operands, and its results depend on nothing else (O52). -/
theorem repeatedCommandsGiveTheSameResults : Obligations.RepeatedCommandsGiveTheSameResults := by
  intro i s t hi hl hw h
  exact resultsDependOnTheNamedOperandsAlone i s t t (exec_sameFixed h).params.symm hl hw (exec_sameOperands hi h) h

end Sys2Proof.Machine
end

section
/-! PROOF. Fetching (20_memory.md R65, 30_encoding.md R80, R84): a scan under way runs the block decoded at the cursor, and
a table word placed is what the next step runs (logs 8, 9 and 17). -/

namespace Sys2Proof.Machine

/-! ### The block at the cursor -/

theorem State.memRead_take (s : State) (sp : Space) (a n k : Nat) :
    (s.memRead sp a n).take k = s.memRead sp a (min k n) := by
  refine List.ext_getElem (by simp) fun i _ hi => ?_
  have hk : i < min k n := by simpa using hi
  rw [List.getElem_take, State.memRead_getElem s sp (by omega), State.memRead_getElem s sp hk]

theorem State.headBytes_eq_take_rest (s : State) : s.headBytes = s.rest.take 3 :=
  (s.memRead_take .inp s.cur (s.inLen - s.cur) 3).symm

/-- The decoder of blocks looks at three bytes. -/
theorem decode_framedBlock_take {bytes rest : List Byte} {i : Instr}
    (h : decode .framedBlock bytes = .ok (i, rest)) : decode .framedBlock (bytes.take 3) = .ok (i, []) := by
  match bytes with
  | b0 :: b1 :: flag :: _ =>
    cases h
    rfl
  | [_, _] => cases h
  | [_] => cases h
  | [] => cases h

/-- The next block of a scan is the instruction its head decodes to. -/
theorem State.scanBlock_of_decode {s : State} {i : Instr} {rest : List Byte} (hc : s.cur ≠ s.inLen)
    (hd : decode .framedBlock s.headBytes = .ok (i, rest)) : s.scanBlock = exec i s := by
  rw [State.scanBlock, if_neg hc, hd]

/-- With no host action pending, the step of a scan under way is its next block. -/
theorem step_of_scan {s : State} (hh : s.host = []) (hb : s.status.busy = true) : step s = s.scanStep := by
  rw [step, State.stepOnce, hh]
  exact if_pos hb

/-- Settles O41: the head the scan fetches is the first three of the bytes from the cursor on. -/
theorem stepRunsTheBlockAtTheCursor : Obligations.StepRunsTheBlockAtTheCursor := by
  intro s i rest hh hb hc hd
  have hhead : decode .framedBlock s.scanned.headBytes = .ok (i, []) := by
    rw [State.headBytes_eq_take_rest]
    exact decode_framedBlock_take hd
  have hblock : s.scanned.scanBlock = exec i s.scanned := State.scanBlock_of_decode (Nat.ne_of_lt hc) hhead
  have hstep := step_of_scan hh hb
  refine ⟨by rw [hstep, State.scanStep, hblock], fun hm => ?_⟩
  have hs := State.scanned_of_still hm
  rw [hs] at hblock
  exact ⟨hs, by rw [hstep, State.scanStep_of_still hm, hblock]⟩

/-! ### A word placed -/

/-- What the decoder reads from a table word it reads from the word's bytes. -/
theorem decode_of_decodeTableWord {nbits w : Nat} {i : Instr} (h : decodeTableWord nbits w = some i) :
    ∃ rest, decode (tableFormat nbits) (wordBytes 3 (w % 2 ^ nbits)) = .ok (i, rest) := by
  unfold decodeTableWord at h
  split at h
  · rename_i j rest hd
    cases h
    exact ⟨rest, hd⟩
  · cases h

/-- The code of a command word is its low three bits (R84). -/
theorem decode_cmd3_wordBytes (w : Nat) :
    decode .cmd3 (wordBytes 3 w) = .ok (decodeCode (BitVec.ofNat 3 w), (wordBytes 3 w).tail) := by
  have hw : wordBytes 3 w = BitVec.ofNat 8 w :: (wordBytes 3 w).tail := by
    simp [wordBytes, List.range_succ_eq_map]
  rw [hw, decode, extractLsb'_ofNat_byte, List.tail_cons]

/-- A command placed is the write of its code. -/
theorem step_placeCommand (s : State) (w : Nat) :
    step (s.placeCommand w) = exec (decodeCode (BitVec.ofNat 3 w)) ((s.placeCommand w).setHost s.host) :=
  (step_of_host rfl).trans (State.hostAct_writeCmd rfl w)

@[simp] theorem wordBytes_length (n w : Nat) : (wordBytes n w).length = n := by simp [wordBytes]

/-- IN of a block placed ends with the block. -/
theorem State.placeBlock_inLen {s : State} (hc : s.cur + 65537 < 2 ^ s.params.argw) (w : Nat) :
    (s.placeBlock w).inLen = s.cur + max 3 (w % 65536 + 2) :=
  State.fit_of_lt (s := s) (v := s.cur + max 3 (w % 65536 + 2)) (by omega)

/-- The head of a block placed is its word. -/
theorem State.placeBlock_headBytes {s : State} (hc : s.cur + 65537 < 2 ^ s.params.argw) (w : Nat) :
    (s.placeBlock w).headBytes = wordBytes 3 w := by
  have hrem : min 3 (s.placeBlock w).remaining = 3 := by
    have hcur : (s.placeBlock w).cur = s.cur := rfl
    rw [State.remaining, State.placeBlock_inLen hc, hcur]
    omega
  have hall := State.memRead_splice (s := s.placeBlock w) (sp := .inp) rfl
  rw [List.length_append, wordBytes_length, State.memRead_add] at hall
  rw [State.headBytes, hrem]
  exact (List.append_inj hall (by simp)).1

/-- A block placed runs next, in the state it was placed in. -/
theorem step_placeBlock {s : State} {w : Nat} {i : Instr} {rest : List Byte}
    (hc : s.cur + 65537 < 2 ^ s.params.argw) (hd : decode .framedBlock (wordBytes 3 w) = .ok (i, rest)) :
    step (s.placeBlock w) = exec i (s.placeBlock w) := by
  have hcur : (s.placeBlock w).cur ≠ (s.placeBlock w).inLen := by
    rw [State.placeBlock_inLen hc]
    show s.cur ≠ _
    omega
  rw [step_of_scan rfl rfl, State.scanStep_of_still rfl]
  exact State.scanBlock_of_decode hcur (by rw [State.placeBlock_headBytes hc]; exact hd)

/-- Settles O42, by the format of the word. -/
theorem placedWordRunsNext : Obligations.PlacedWordRunsNext := by
  intro s nbits w i _ hc hn h
  obtain ⟨rest, hd⟩ := decode_of_decodeTableWord h
  cases hf : tableFormat nbits with
  | cmd3 =>
    rw [hf, decode_cmd3_wordBytes] at hd
    cases hd
    rw [State.withFetchWord, State.placeWord, hf]
    exact ⟨_, step_placeCommand s _, rfl, rfl, rfl, rfl⟩
  | framedBlock =>
    have hw : w % 2 ^ nbits % 2 ^ 24 = w % 2 ^ nbits :=
      Nat.mod_eq_of_lt (Nat.lt_of_lt_of_le (Nat.mod_lt _ (Nat.two_pow_pos _)) (Nat.pow_le_pow_right (by decide) hn))
    rw [hf] at hd
    rw [State.withFetchWord, State.placeWord, hf, hw]
    exact ⟨_, step_placeBlock hc hd, rfl, rfl, rfl, rfl⟩

end Sys2Proof.Machine
end

section
/-! PROOF. The host and the spaces (20_memory.md R50, R51, R58, 70_reset_and_hazards.md R217): a read changes nothing, a
write reads back, and no host action but a command or a reset touches the results. -/

namespace Sys2Proof.Machine

/-! ### Reads -/

/-- A space has a byte at this offset for the host to read: IN and NAME up to their capacity (00_scope.md R9), OUT at
every offset (log 6). -/
def HasByte (p : Config.Params) (sp : Space) (a : Nat) : Prop :=
  (sp = .inp → a < p.inMax) ∧ (sp = .name → a < p.nameMax)

theorem HasByte.inp {p : Config.Params} {a : Nat} (h : a < p.inMax) : HasByte p .inp a := ⟨fun _ => h, nofun⟩

theorem HasByte.name {p : Config.Params} {a : Nat} (h : a < p.nameMax) : HasByte p .name a := ⟨nofun, fun _ => h⟩

theorem State.hostReadReg_replies (s : State) (j : Nat) :
    ∃ v n, s.hostReadReg j = s.replying (some v) n ∧ s.free ≤ n := by
  unfold State.hostReadReg
  split
  · exact ⟨_, _, rfl, Nat.le_succ _⟩
  · exact ⟨_, _, rfl, Nat.le_refl _⟩

theorem State.hostReadRec_replies (s : State) (i : Nat) :
    ∃ v n, s.hostReadRec i = s.replying (some v) n ∧ s.free ≤ n := by
  unfold State.hostReadRec
  split
  · exact ⟨_, _, rfl, Nat.le_refl _⟩
  · exact ⟨_, _, rfl, Nat.le_succ _⟩

/-- IN and NAME answer with their byte, the block busy or not (R50). -/
theorem State.hostReadByte_input {s : State} {sp : Space} {a : Nat} (hsp : sp ≠ .out) (ha : HasByte s.params sp a) :
    s.hostReadByte sp a = .next (s.setReply (.byte (s.byteAt sp a))) := by
  cases sp with
  | inp => exact if_neg (Nat.not_le.mpr (ha.1 rfl))
  | name => exact if_neg (Nat.not_le.mpr (ha.2 rfl))
  | out => exact absurd rfl hsp

/-- OUT answers with its valid content while the block is idle (R51). -/
theorem State.hostReadByte_out {s : State} {a : Nat} (hb : s.status.busy = false) (ha : a < s.outLen) :
    s.hostReadByte .out a = .next (s.setReply (.byte (s.byteAt .out a))) :=
  if_pos ⟨hb, ha⟩

theorem State.hostReadByte_replies {s : State} {sp : Space} {a : Nat} (ha : HasByte s.params sp a) :
    ∃ v n, s.hostReadByte sp a = .next (s.replying (some v) n) ∧ s.free ≤ n := by
  by_cases hsp : sp = .out
  · subst hsp
    simp only [State.hostReadByte]
    split
    · exact ⟨_, _, rfl, Nat.le_refl _⟩
    · exact ⟨_, _, rfl, Nat.le_succ _⟩
  · exact ⟨_, _, State.hostReadByte_input hsp ha, Nat.le_refl _⟩

/-- A valid record is the reply while the block is idle (R51). -/
theorem State.hostReadRec_idle {s : State} {k : Nat} {r : BlockRecord} (hb : s.status.busy = false)
    (hk : k < s.recCnt) (hr : s.record? k = some r) : s.hostReadRec k = s.setReply (.record r) := by
  rw [State.hostReadRec, if_pos ⟨hb, hk⟩, hr]
  rfl

/-- Settles O58, by what is read. -/
theorem hostReadsChangeNothing : Obligations.HostReadsChangeNothing := by
  intro s x rest hh hx
  rcases hx with ⟨j, rfl⟩ | ⟨i, rfl⟩ | ⟨sp, a, rfl, ha⟩
  · obtain ⟨v, n, he, hn⟩ := (s.setHost rest).hostReadReg_replies j
    exact ⟨v, n, (step_of_host hh).trans (congrArg Host.Outcome.next he), hn⟩
  · obtain ⟨v, n, he, hn⟩ := (s.setHost rest).hostReadRec_replies i
    exact ⟨v, n, (step_of_host hh).trans (congrArg Host.Outcome.next he), hn⟩
  · obtain ⟨v, n, he, hn⟩ := State.hostReadByte_replies (s := s.setHost rest) ha
    exact ⟨v, n, (step_of_host hh).trans he, hn⟩

/-! ### Reading back -/

/-- A write of IN or NAME and then a read of it: the reply is what the write left there. -/
theorem run_inputWrite_read {s : State} {x : HostAction} {sp : Space} {c : Nat} {rest : List HostAction}
    (hx : InputWrite s.params x) (hsp : sp ≠ .out) (hc : HasByte s.params sp c)
    (hh : s.host = x :: .readByte sp c :: rest) :
    ∃ t, Host.Core.run Sys2Proof.core 2 s = .next t ∧
      State.reply t = some (.byte (lastWritten sp c (s.byteAt sp c) [x])) := by
  obtain ⟨u, hu, huh, hw⟩ := step_inputWrite hh hx
  have hread := (step_of_host huh).trans
    (State.hostReadByte_input (s := u.setHost rest) hsp (show HasByte u.params sp c from hw.params.symm ▸ hc))
  refine ⟨_, (run_succ_next 1 hu).trans (run_succ_next 0 hread), ?_⟩
  rw [← hw.bytes sp c]
  rfl

/-- Settles O48, clause by clause. -/
theorem hostReadsBackWhatItWrote : Obligations.HostReadsBackWhatItWrote := by
  intro s a b rest
  refine ⟨fun ha hh => ?inSame, fun c hc ha hca hh => ?inOther, fun ha hh => ?nameSame,
    fun c hc ha hca hh => ?nameOther, fun hb ha hh => ?out, fun r hb ha hr hh => ?record⟩
  case inSame =>
    simpa [lastWritten] using run_inputWrite_read (.inl ⟨a, b, rfl, ha⟩) (by decide) (.inp ha) hh
  case inOther =>
    simpa [lastWritten, hc.symm] using run_inputWrite_read (.inl ⟨a, b, rfl, ha⟩) (by decide) (.inp hca) hh
  case nameSame =>
    simpa [lastWritten] using run_inputWrite_read (.inr ⟨a, b, rfl, ha⟩) (by decide) (.name ha) hh
  case nameOther =>
    simpa [lastWritten, hc.symm] using run_inputWrite_read (.inr ⟨a, b, rfl, ha⟩) (by decide) (.name hca) hh
  case out => exact ⟨_, (step_of_host hh).trans (State.hostReadByte_out (s := s.setHost rest) hb ha), rfl⟩
  case record =>
    exact ⟨_, (step_of_host hh).trans
      (congrArg Host.Outcome.next (State.hostReadRec_idle (s := s.setHost rest) hb ha hr)), rfl⟩

/-! ### The results -/

/-- Settles O47: of the things a host action can do only a reset and a command touch a result. -/
theorem hostCannotWriteResults : Obligations.HostCannotWriteResults := by
  intro s t a rest hh hreset hcmd ht
  rcases State.hostAct_cases ((step_of_host hh).symm.trans ht) with ⟨ha, -⟩ | ⟨v, ha, -⟩ | ⟨-, v, hv⟩ |
    ⟨c, b, -, -, rfl⟩ | ⟨c, b, -, -, rfl⟩ | ⟨r, n, rfl⟩
  · exact absurd ha hreset
  · exact absurd ha (hcmd v)
  · rcases hv with rfl | rfl | rfl | rfl <;>
      exact ⟨rfl, rfl, rfl, rfl, rfl, fun _ => rfl, fun _ => rfl⟩
  · obtain ⟨m, n, he, -⟩ := (s.setHost rest).noteMoved_form c
    rw [he]
    exact ⟨rfl, rfl, rfl, rfl, rfl, fun _ => rfl, fun _ => rfl⟩
  · exact ⟨rfl, rfl, rfl, rfl, rfl, fun _ => rfl, fun _ => rfl⟩
  · exact ⟨rfl, rfl, rfl, rfl, rfl, fun _ => rfl, fun _ => rfl⟩

/-! ### Writes under a scan -/

/-- What the scan reads does not depend on the host's side. -/
theorem State.scanned_byteAt_congr {s t : State} (hi : t.inMem = s.inMem) (hm : t.moved = s.moved)
    (he : t.epoch = s.epoch) (a : Nat) : t.scanned.byteAt .inp a = s.scanned.byteAt .inp a := by
  refine State.byteAt_congr (s := s.scanned) (t := t.scanned) ?_ he a
  simp only [State.cells, State.scanned, hi, hm]

/-- What a write of IN makes of an idle block. -/
theorem State.noteMoved_putIn_idle {s : State} (hb : s.status.busy = false) (a : Nat) (b : Byte) :
    (s.noteMoved a).putIn a b = { s with inMem := Memory.write s.inMem a b } := by
  rw [State.noteMoved, hb]
  rfl

/-- What it makes of a scan under way. -/
theorem State.noteMoved_putIn_busy {s : State} (hb : s.status.busy = true) (a : Nat) (b : Byte) :
    (s.noteMoved a).putIn a b =
      { s with
        inMem := Memory.write s.inMem a b
        moved := Memory.write s.moved a (Config.freeByte s.free)
        free := s.free + 1 } := by
  rw [State.noteMoved, hb]
  rfl

theorem State.noteMoved_putIn_byteAt (s : State) (a : Nat) (b : Byte) (c : Nat) :
    ((s.noteMoved a).putIn a b).byteAt .inp c = if a = c then b else s.byteAt .inp c := by
  obtain ⟨m, n, he, -⟩ := s.noteMoved_form a
  rw [he, State.byteAt_putIn]
  simp only [true_and]
  rfl

/-- A scan under way reads a free value at the offset written, and every other byte as before (R217, log 13). -/
theorem State.scanned_noteMoved_putIn {s : State} (hw : Memory.wf s.moved = true) (hb : s.status.busy = true)
    (a : Nat) (b : Byte) (c : Nat) :
    ((s.noteMoved a).putIn a b).scanned.byteAt .inp c =
      if a = c then Config.freeByte s.free else s.scanned.byteAt .inp c := by
  have hmoved : ((s.noteMoved a).putIn a b).moved = Memory.write s.moved a (Config.freeByte s.free) := by
    rw [State.noteMoved_putIn_busy hb]
  rw [State.scanned_byteAt (by rw [hmoved]; exact Memory.wf_write a _ hw), hmoved, Memory.getD_read?_write,
    State.noteMoved_putIn_byteAt, State.scanned_byteAt hw]
  split <;> rfl

/-- A step of a scan that answers is a block of IN as the scan reads it, settled. -/
theorem State.scanStep_next {s v : State} (h : s.scanStep = .next v) :
    ∃ t, s.scanned.scanBlock = .next t ∧ v = s.settle t := by
  unfold State.scanStep at h
  cases hp : s.scanned.scanBlock with
  | next t =>
    rw [hp] at h
    cases h
    exact ⟨t, rfl, rfl⟩
  | fault e =>
    rw [hp] at h
    cases h
  | refused e =>
    rw [hp] at h
    cases h

/-- A step that leaves a scan under way keeps what it reads at every offset but one the host writes in it. -/
theorem step_keeps_scanned {u v : State} (h : u.Inv) (hb : u.status.busy = true) (hs : step u = .next v)
    (hv : v.status.busy = true) {c : Nat} (hc : ∀ b rest, u.host ≠ .writeIn c b :: rest) :
    v.scanned.byteAt .inp c = u.scanned.byteAt .inp c := by
  rcases step_cases u with ⟨x, rest, hh, hx⟩ | ⟨-, -, hx⟩ | ⟨-, hi, -⟩
  · rcases State.hostAct_cases (hx.symm.trans hs) with ⟨-, rfl⟩ | ⟨n, -, hi, -⟩ | ⟨hi, -⟩ |
      ⟨a, b, rfl, -, rfl⟩ | ⟨a, b, -, -, rfl⟩ | ⟨r, n, rfl⟩
    · cases hv
    · exact absurd (hb.symm.trans hi) (by decide)
    · exact absurd (hb.symm.trans hi) (by decide)
    · have hac : a ≠ c := fun e => hc b rest (e ▸ hh)
      rw [State.scanned_noteMoved_putIn (s := u.setHost rest) h.movedOk.1 hb, if_neg hac]
      exact State.scanned_byteAt_congr rfl rfl rfl c
    · exact State.scanned_byteAt_congr rfl rfl rfl c
    · exact State.scanned_byteAt_congr rfl rfl rfl c
  · obtain ⟨t, hp, rfl⟩ := State.scanStep_next (hx.symm.trans hs)
    have hfix := State.SameFixed.scanBlock hp
    rw [State.scanned_settle hfix hv]
    exact hfix.byteAt .inp c
  · exact absurd (hb.symm.trans hi) (by decide)

/-- Settles O56: the two writes, as steps; then every step of a scan, by `step_keeps_scanned` and the invariant. -/
theorem inputMovedUnderAScanReadsAsAnyValue : Obligations.InputMovedUnderAScanReadsAsAnyValue := by
  refine ⟨fun s a b rest h => ⟨fun hh ha => ?inp, fun hh ha => ?name⟩, fun u v h hb hs => ⟨?kept, ?ended⟩⟩
  case inp =>
    have hbyte := State.noteMoved_putIn_byteAt (s.setHost rest) a b
    refine ⟨_, (step_of_host hh).trans (if_neg (Nat.not_le.mpr ha)),
      fun hb => State.noteMoved_putIn_idle (s := s.setHost rest) hb a b,
      fun hb => State.noteMoved_putIn_busy (s := s.setHost rest) hb a b, (hbyte a).trans (if_pos rfl),
      fun c hc => ?other, fun hb c => ?idle, fun hb => ?busy⟩
    case other => exact (hbyte c).trans (if_neg hc.symm)
    case idle =>
      have hm : (((s.setHost rest).noteMoved a).putIn a b).moved = [] := by
        rw [State.noteMoved_putIn_idle (s := s.setHost rest) hb]
        exact h.idle_still hb
      rw [State.scanned_of_still hm]
    case busy =>
      have hscan := State.scanned_noteMoved_putIn (s := s.setHost rest) h.movedOk.1 hb a b
      exact ⟨(hscan a).trans (if_pos rfl), fun c hc => (hscan c).trans (if_neg hc.symm)⟩
  case name =>
    have hbyte := State.byteAt_putName (s.setHost rest) a b .name
    exact ⟨_, (step_of_host hh).trans (if_neg (Nat.not_le.mpr ha)), rfl, (hbyte a).trans (if_pos ⟨rfl, rfl⟩),
      fun c hc => (hbyte c).trans (if_neg fun e => hc e.2.symm), State.scanned_byteAt_congr rfl rfl rfl⟩
  case kept => exact fun hv c hc => step_keeps_scanned h hb hs hv hc
  case ended => exact fun hv => State.scanned_of_still ((stepKeepsTheInvariant u v h hs).idle_still hv)

end Sys2Proof.Machine
end

section
/-! PROOF. Encodings (30_encoding.md R70, R80, R82, R84): the decoder inverts the encoder, and it is the opcode table. -/

namespace Sys2Proof

/-! ### Decoding what the encoder gives -/

theorem decode_code (c : BitVec 3) (rest : List Byte) :
    decode .cmd3 (c.setWidth 8 :: rest) = .ok (decodeCode c, rest) := by
  have hc : (c.setWidth 8).extractLsb' 0 3 = c := by
    revert c
    decide
  rw [decode, hc]

theorem decode_blockHead (len : U16) (flag : Byte) (rest : List Byte) :
    decode .framedBlock (le16 len ++ [flag] ++ rest) = .ok (classify len flag, rest) := by
  rw [le16_eq]
  simp only [List.cons_append, List.nil_append, decode, u16le_le16]

/-- Every command is the meaning of a code (R84). -/
theorem exists_decodeCode {i : Instr} (hf : i.format = .cmd3) : ∃ c, decodeCode c = i := by
  cases i with
  | reserved0 => exact ⟨0b000#3, rfl⟩
  | csum => exact ⟨0b001#3, rfl⟩
  | encHdr => exact ⟨0b010#3, rfl⟩
  | encData => exact ⟨0b011#3, rfl⟩
  | encTap => exact ⟨0b100#3, rfl⟩
  | dec => exact ⟨0b101#3, rfl⟩
  | reserved6 => exact ⟨0b110#3, rfl⟩
  | reserved7 => exact ⟨0b111#3, rfl⟩
  | blkIllegalLen0 | blkIllegalLen1 | blkHdr | blkData | blkOther => cases hf

theorem ne_illegal_lengths {len : U16} (h : 2 ≤ len.toNat) : len ≠ 0x0000#16 ∧ len ≠ 0x0001#16 := by
  constructor <;> rintro rfl <;> exact absurd h (by decide)

/-- A length of 2 or more with flag 0xFF is a data block, also where the length is 0x13 (R80). -/
theorem classify_data {len : U16} (h : 2 ≤ len.toNat) : classify len 0xFF#8 = .blkData len := by
  obtain ⟨h0, h1⟩ := ne_illegal_lengths h
  rw [classify, if_neg h0, if_neg h1, if_neg (fun e => absurd e.1 (by decide)), if_pos rfl]

/-- What no row of higher priority takes is the default row's (R80). -/
theorem classify_other {len : U16} {flag : Byte} (h : 2 ≤ len.toNat) (hflag : flag ≠ 0xFF#8)
    (hshape : ¬ (flag = 0x00#8 ∧ len = 0x0013#16)) : classify len flag = .blkOther len flag := by
  obtain ⟨h0, h1⟩ := ne_illegal_lengths h
  rw [classify, if_neg h0, if_neg h1, if_neg hshape, if_neg hflag]

/-- Every well-formed block instruction is the class of a head (R80, R82). -/
theorem exists_classify {i : Instr} (hf : i.format = .framedBlock) (hw : i.wellFormed = true) :
    ∃ len flag, classify len flag = i := by
  cases i with
  | blkIllegalLen0 flag => exact ⟨0x0000#16, flag, rfl⟩
  | blkIllegalLen1 flag => exact ⟨0x0001#16, flag, rfl⟩
  | blkHdr => exact ⟨0x0013#16, 0x00#8, rfl⟩
  | blkData len => exact ⟨len, 0xFF#8, classify_data (of_decide_eq_true hw)⟩
  | blkOther len flag =>
    simp only [Instr.wellFormed, Bool.and_eq_true, decide_eq_true_eq, bne_iff_ne, Bool.not_eq_true',
      ← Bool.not_eq_true, beq_iff_eq] at hw
    obtain ⟨⟨hlen, hflag⟩, hshape⟩ := hw
    exact ⟨len, flag, classify_other hlen hflag hshape⟩
  | csum | encHdr | encData | encTap | dec | reserved0 | reserved6 | reserved7 => cases hf

/-- Settles O1: a well-formed instruction is the meaning of a code or the class of a head, whose bytes it is encoded as. -/
theorem decodeOfEncodeIsIdentity : Obligations.DecodeOfEncodeIsIdentity := by
  intro i hw rest
  cases hf : i.format with
  | cmd3 =>
    obtain ⟨c, rfl⟩ := exists_decodeCode hf
    rw [encode_decodeCode]
    exact decode_code c rest
  | framedBlock =>
    obtain ⟨len, flag, rfl⟩ := exists_classify hf hw
    rw [encode_classify]
    exact decode_blockHead len flag rest

/-- Settles O4: each word is cut into its bytes and decoded. -/
theorem specWordsDecode : Obligations.SpecWordsDecode := by
  unfold Obligations.SpecWordsDecode
  decide

/-! ### The rows of the opcode table -/

theorem firstRow_cons (r : OpRow) (rows : List OpRow) (w : Nat) :
    firstRow (r :: rows) w = if w &&& r.mask = r.pattern then some r.mnemonic else firstRow rows w := by
  rw [firstRow, List.find?_cons]
  by_cases h : w &&& r.mask = r.pattern
  · rw [beq_iff_eq.mpr h, if_pos h]
    rfl
  · rw [beq_eq_false_iff_ne.mpr h, if_neg h]
    rfl

/-- `W` of a block's head (R80). -/
def headWord (len : U16) (flag : Byte) : Nat := len.toNat + 65536 * flag.toNat

theorem headWord_and_lengthMask (len : U16) (flag : Byte) : headWord len flag &&& 0x00FFFF = len.toNat := by
  have := len.isLt
  rw [headWord, Nat.and_two_pow_sub_one_eq_mod _ 16]
  omega

theorem headWord_and_wholeMask (len : U16) (flag : Byte) : headWord len flag &&& 0xFFFFFF = headWord len flag := by
  have := len.isLt
  have := flag.isLt
  rw [headWord, Nat.and_two_pow_sub_one_eq_mod _ 24]
  omega

/-- The flag's mask, on the two halves of the word. -/
theorem headWord_and_flagMask (len : U16) (flag : Byte) : headWord len flag &&& 0xFF0000 = 65536 * flag.toNat := by
  have hlen := len.isLt
  have hflag := flag.isLt
  have hlow : (headWord len flag &&& 0xFF0000) % 2 ^ 16 = 0 := by
    rw [Nat.and_mod_two_pow]
    exact Nat.and_zero _
  have hhigh : (headWord len flag &&& 0xFF0000) / 2 ^ 16 = flag.toNat := by
    rw [Nat.and_div_two_pow]
    calc headWord len flag / 2 ^ 16 &&& 255 = headWord len flag / 2 ^ 16 % 2 ^ 8 := Nat.and_two_pow_sub_one_eq_mod _ 8
      _ = flag.toNat := by rw [headWord]; omega
  omega

/-- The rows a head matches, in order of priority, by its two fields. -/
theorem firstRow_blockRows (len : U16) (flag : Byte) :
    firstRow blockRows (headWord len flag) =
      if len = 0x0000#16 then some "BLK_ILLEGAL_LEN0" else if len = 0x0001#16 then some "BLK_ILLEGAL_LEN1"
      else if flag = 0x00#8 ∧ len = 0x0013#16 then some "BLK_HDR" else if flag = 0xFF#8 then some "BLK_DATA"
      else some "BLK_OTHER" := by
  have hlen := len.isLt
  have h0 : len.toNat = 0 ↔ len = 0x0000#16 := BitVec.toNat_inj (y := 0x0000#16)
  have h1 : len.toNat = 1 ↔ len = 0x0001#16 := BitVec.toNat_inj (y := 0x0001#16)
  have hshape : headWord len flag = 0x13 ↔ flag = 0x00#8 ∧ len = 0x0013#16 := by
    rw [headWord, ← BitVec.toNat_inj, ← BitVec.toNat_inj]
    simp only [BitVec.toNat_ofNat]
    omega
  have hdata : 65536 * flag.toNat = 0xFF0000 ↔ flag = 0xFF#8 := by
    rw [← BitVec.toNat_inj]
    simp only [BitVec.toNat_ofNat]
    omega
  simp only [blockRows, firstRow_cons, headWord_and_lengthMask, headWord_and_wholeMask, headWord_and_flagMask,
    Nat.and_zero, h0, h1, hshape, hdata, if_true]

/-- Settles O3: the eight codes by evaluation; a head by `firstRow_blockRows`, which tests what `classify` tests. -/
theorem decoderIsFirstMatchingRow : Obligations.DecoderIsFirstMatchingRow := by
  refine ⟨by decide, fun len flag => (firstRow_blockRows len flag).trans ?_⟩
  unfold classify
  split_ifs <;> rfl

end Sys2Proof
end

section
/-! PROOF. The reserved command codes (30_encoding.md R85): the command start, then the fault entry, and nothing else. -/

namespace Sys2Proof.Machine

/-- What a command that starts and faults at once leaves, the whole state (10_state.md R39, 60_exceptions.md R186). -/
theorem State.commandStart_raise (s : State) (f : TapFault) :
    s.commandStart.raise f =
      { s with status := .faulted f, outLen := 0, recCnt := 0, warnCnt := 0, acc := 0x00#8, cur := 0 } := by
  rw [State.commandStart_raise_eq, State.fit_zero]
  simp only [State.raise, State.reading, State.setStatus, State.setOutLen, State.setRecCnt, State.setWarnCnt,
    State.setAcc, State.fit_zero]
  rfl

/-- Settles O30: the three codes have one meaning. -/
theorem reservedCodesRaiseIllegalCommand : Obligations.ReservedCodesRaiseIllegalCommand := by
  intro s c hc
  have hexec : exec (decodeCode c) s = .next (s.commandStart.raise .illegalCommand) := by
    rcases hc with rfl | rfl | rfl <;> rfl
  rw [hexec, State.commandStart_raise]
  rfl

end Sys2Proof.Machine
end

section
/-! PROOF. The `LOAD` statements (30_encoding.md R87): the bytes are written one a step from offset 0 on, then the length. -/

namespace Sys2Proof.Machine

/-! ### Either space -/

/-- The byte writes of a `LOAD`, for a space whose cells stand in a state as `place` puts them. -/
theorem run_bytes {place : List Host.Cell → List HostAction → State} {w : Nat → Byte → HostAction} {cap : Nat}
    (hstep : ∀ m a b rest, a < cap → step (place m (w a b :: rest)) = .next (place (Memory.write m a b) rest))
    (bs : List Byte) (m : List Host.Cell) (a k : Nat) (rest : List HostAction) (hcap : a + bs.length ≤ cap) :
    Host.Core.run Sys2Proof.core (bs.length + k) (place m (Script.bytes w a bs ++ rest)) =
      Host.Core.run Sys2Proof.core k (place (Memory.writeSeq m a bs) rest) := by
  induction bs generalizing m a with
  | nil => rw [List.length_nil, Nat.zero_add]; rfl
  | cons b bs ih =>
    rw [List.length_cons] at hcap ⊢
    rw [Nat.add_right_comm, Script.bytes, List.cons_append, run_succ_next _ (hstep m a b _ (by omega)),
      ih _ _ (by omega), Memory.writeSeq]

/-- A statement run whole: the byte writes into a space whose cells stand in the state as `place` puts them, then the write
of the length. -/
theorem run_load {place : List Host.Cell → List HostAction → State} {w : Nat → Byte → HostAction} {cap idx : Nat}
    {m : List Host.Cell} {bs : List Byte} {rest : List HostAction} {t : State}
    (hbyte : ∀ m a b rest, a < cap → step (place m (w a b :: rest)) = .next (place (Memory.write m a b) rest))
    (hlength : step (place (Memory.writeSeq m 0 bs) (.writeReg idx bs.length :: rest)) = .next t)
    (hcap : bs.length ≤ cap) :
    Host.Core.run Sys2Proof.core (bs.length + 1) (place m (Script.bytes w 0 bs ++ [.writeReg idx bs.length] ++ rest)) =
      .next t := by
  rw [List.append_assoc, run_bytes hbyte bs m 0 1 _ (by omega)]
  exact run_succ_next 0 hlength

/-! ### `LOAD IN` -/

/-- The state with IN's cells and the pending host actions replaced. -/
def State.loadingIn (s : State) (m : List Host.Cell) (h : List HostAction) : State := { s with inMem := m, host := h }

theorem step_loadingIn (s : State) (m : List Host.Cell) (x : HostAction) (rest : List HostAction) :
    step (s.loadingIn m (x :: rest)) = (s.loadingIn m rest).hostAct x :=
  step_of_host (s := s.loadingIn m (x :: rest)) rfl

theorem step_loadingIn_byte {s : State} (hb : s.status.busy = false) (m : List Host.Cell) (a : Nat) (b : Byte)
    (rest : List HostAction) (ha : a < s.params.inMax) :
    step (s.loadingIn m (.writeIn a b :: rest)) = .next (s.loadingIn (Memory.write m a b) rest) :=
  calc step (s.loadingIn m (.writeIn a b :: rest))
      = (s.loadingIn m rest).hostWriteIn a b := step_loadingIn s m _ rest
    _ = .next (((s.loadingIn m rest).noteMoved a).putIn a b) := if_neg (Nat.not_le.mpr ha)
    _ = .next (s.loadingIn (Memory.write m a b) rest) :=
      congrArg _ (State.noteMoved_putIn_idle (s := s.loadingIn m rest) hb a b)

theorem step_loadingIn_length {s : State} (hb : s.status.busy = false) (m : List Host.Cell) (n : Nat)
    (rest : List HostAction) :
    step (s.loadingIn m (.writeReg 4 n :: rest)) = .next ((s.loadingIn m rest).setInLen n) :=
  calc step (s.loadingIn m (.writeReg 4 n :: rest))
      = .next ((s.loadingIn m rest).writeReg 4 n) := step_loadingIn s m _ rest
    _ = .next ((s.loadingIn m rest).setInLen n) :=
      congrArg Host.Outcome.next (State.writeReg_eq (s := s.loadingIn m rest) hb 4 n)

/-- `LOAD IN, <bytes>`, as one equation. -/
theorem run_loadIn {s : State} {bs : List Byte} {rest : List HostAction} (hb : s.status.busy = false)
    (hcap : bs.length ≤ s.params.inMax) (hh : s.host = Script.loadIn bs ++ rest) :
    Host.Core.run Sys2Proof.core (bs.length + 1) s =
      .next ((s.loadingIn (Memory.writeSeq s.inMem 0 bs) rest).setInLen bs.length) := by
  have hs : s = s.loadingIn s.inMem (Script.loadIn bs ++ rest) := hh ▸ rfl
  exact (congrArg _ hs).trans (run_load (place := s.loadingIn) (step_loadingIn_byte hb)
    (step_loadingIn_length hb _ _ rest) hcap)

/-! ### `LOAD NAME` -/

/-- The state with NAME's cells and the pending host actions replaced. -/
def State.loadingName (s : State) (m : List Host.Cell) (h : List HostAction) : State :=
  { s with nameMem := m, host := h }

theorem step_loadingName (s : State) (m : List Host.Cell) (x : HostAction) (rest : List HostAction) :
    step (s.loadingName m (x :: rest)) = (s.loadingName m rest).hostAct x :=
  step_of_host (s := s.loadingName m (x :: rest)) rfl

theorem step_loadingName_byte (s : State) (m : List Host.Cell) (a : Nat) (b : Byte) (rest : List HostAction)
    (ha : a < s.params.nameMax) :
    step (s.loadingName m (.writeName a b :: rest)) = .next (s.loadingName (Memory.write m a b) rest) :=
  calc step (s.loadingName m (.writeName a b :: rest))
      = (s.loadingName m rest).hostWriteName a b := step_loadingName s m _ rest
    _ = .next (s.loadingName (Memory.write m a b) rest) := if_neg (Nat.not_le.mpr ha)

theorem step_loadingName_length {s : State} (hb : s.status.busy = false) (m : List Host.Cell) (n : Nat)
    (rest : List HostAction) :
    step (s.loadingName m (.writeReg 5 n :: rest)) = .next ((s.loadingName m rest).setNameLen n) :=
  calc step (s.loadingName m (.writeReg 5 n :: rest))
      = .next ((s.loadingName m rest).writeReg 5 n) := step_loadingName s m _ rest
    _ = .next ((s.loadingName m rest).setNameLen n) :=
      congrArg Host.Outcome.next (State.writeReg_eq (s := s.loadingName m rest) hb 5 n)

/-- `LOAD NAME, <bytes>`, as one equation. -/
theorem run_loadName {s : State} {bs : List Byte} {rest : List HostAction} (hb : s.status.busy = false)
    (hcap : bs.length ≤ s.params.nameMax) (hh : s.host = Script.loadName bs ++ rest) :
    Host.Core.run Sys2Proof.core (bs.length + 1) s =
      .next ((s.loadingName (Memory.writeSeq s.nameMem 0 bs) rest).setNameLen bs.length) := by
  have hs : s = s.loadingName s.nameMem (Script.loadName bs ++ rest) := hh ▸ rfl
  exact (congrArg _ hs).trans (run_load (place := s.loadingName) (step_loadingName_byte s)
    (step_loadingName_length hb _ _ rest) hcap)

/-! ### Both statements -/

/-- Settles O49: the state each statement ends in, by `run_loadIn` and `run_loadName`. -/
theorem loadScriptsPlaceTheirBytes : Obligations.LoadScriptsPlaceTheirBytes := by
  intro s bs rest hlegal hb
  obtain ⟨-, hin, hname⟩ := hlegal
  have hpos := Nat.two_pow_pos s.params.argw
  refine ⟨fun hcap hh => ⟨_, run_loadIn hb hcap hh, ?_, rfl, rfl, rfl, rfl, rfl, rfl, rfl, rfl⟩,
    fun hcap hh => ⟨_, run_loadName hb hcap hh, ?_, rfl, rfl, rfl, rfl, rfl, rfl, rfl, rfl⟩⟩
  · have hlen : s.fit bs.length = bs.length := State.fit_of_lt (by omega)
    exact (congrArg (State.memRead _ .inp 0) hlen).trans (State.memRead_writeSeq (m := s.inMem) rfl)
  · have hlen : s.fit bs.length = bs.length := State.fit_of_lt (by omega)
    exact (congrArg (State.memRead _ .name 0) hlen).trans (State.memRead_writeSeq (m := s.nameMem) rfl)

end Sys2Proof.Machine
end

section
/-! PROOF. The checksum accumulator (40_checksum.md): the laws of `xor_fold` (R103), the residue of a block body (R104),
and `CSUM` (R102). -/

namespace Sys2Proof.Machine

/-! ### The laws of `xor_fold` -/

@[simp] theorem xorFold_singleton (b : Byte) : xorFold [b] = b := by
  rw [xorFold_cons, xorFold_nil, BitVec.xor_zero]

theorem xorFold_append (s t : List Byte) : xorFold (s ++ t) = xorFold s ^^^ xorFold t := by
  rw [xorFold, List.foldl_append, xorFold_foldl, xorFold_foldl s, BitVec.zero_xor]

theorem xorFold_eq_of_perm {s t : List Byte} (h : s.Perm t) : xorFold s = xorFold t :=
  h.foldl_op_eq

/-- Equal bytes cancel in pairs. -/
theorem xorFold_replicate (b : Byte) (k : Nat) :
    xorFold (List.replicate k b) = if k % 2 = 0 then 0x00#8 else b := by
  induction k with
  | zero => rfl
  | succ k ih =>
    rw [List.replicate_succ, xorFold_cons, ih]
    rcases Nat.mod_two_eq_zero_or_one k with hk | hk
    · rw [if_pos hk, if_neg (by omega), BitVec.xor_zero]
    · rw [if_neg (by omega), if_pos (by omega), BitVec.xor_self]

/-- A byte value that occurs an even number of times contributes nothing: its occurrences, moved to one end, cancel. -/
theorem xorFold_filter_ne {b : Byte} {s : List Byte} (h : s.count b % 2 = 0) :
    xorFold (s.filter (· != b)) = xorFold s := by
  have hb : xorFold (s.filter (· == b)) = 0x00#8 := by
    rw [List.filter_beq, xorFold_replicate, if_pos h]
  calc xorFold (s.filter (· != b))
      = xorFold (s.filter (· == b)) ^^^ xorFold (s.filter (· != b)) := by rw [hb, BitVec.zero_xor]
    _ = xorFold (s.filter (· == b) ++ s.filter (· != b)) := (xorFold_append _ _).symm
    _ = xorFold s := xorFold_eq_of_perm (List.filter_append_perm (· == b) s)

/-- Settles O5: bitwise exclusive-or makes a commutative group of the bytes, in which `xorFold` is the sum of a list. -/
theorem xorFoldLaws : Obligations.XorFoldLaws :=
  ⟨fun _ => BitVec.xor_zero, fun _ => BitVec.xor_self, BitVec.xor_comm, BitVec.xor_assoc, xorFold_append,
    fun _ _ => xorFold_eq_of_perm, xorFold_singleton, xorFold_replicate, fun _ _ => xorFold_filter_ne⟩

/-! ### `CSUM` -/

/-- What `CSUM` has come to within the capacity, in any configuration: the fold of IN in `ACC`, and no other result. -/
theorem exec_csum_produced {s : State} (h : s.inLen ≤ s.params.inMax) :
    ∃ u, exec .csum s = .next u.commandEnd ∧ s.Produced u [] (xorFold s.inBytes) := by
  have hd : s.delivery .csum = .next ([], xorFold s.inBytes) := if_neg (Nat.not_lt.mpr h)
  have ha := execCsum_answers s
  rw [hd] at ha
  exact ha

theorem State.xorFold_inBytes (s : State) :
    xorFold s.inBytes = (List.range s.inLen).foldl (fun a i => a ^^^ s.byteAt .inp i) 0x00#8 := by
  rw [xorFold, State.inBytes, State.memRead, ← List.range_eq_range', List.foldl_map]

/-- A command but `DEC` that has come to its end without a fault succeeds. -/
theorem State.Produced.commandEnd_status {s u : State} {bs : List Byte} {a : Byte} (h : s.Produced u bs a) :
    u.commandEnd.status = .success := by
  rw [State.commandEnd_status, h.status]
  rfl

/-- Settles O7: what `exec_csum_produced` says, field by field. -/
theorem csumFoldsTheInput : Obligations.CsumFoldsTheInput := by
  intro s hin
  obtain ⟨u, hu, hp⟩ := exec_csum_produced hin
  exact ⟨_, hu, hp.acc.trans s.xorFold_inBytes, hp.commandEnd_status, hp.outLen, hp.recCnt, hp.warnCnt⟩

/-! ### The residue of a block body -/

/-- R104, the law itself. -/
theorem xorFold_residue_iff (bs : List Byte) (chk : Byte) : xorFold (bs ++ [chk]) = 0x00#8 ↔ chk = xorFold bs := by
  rw [xorFold_append, xorFold_singleton, BitVec.xor_eq_zero_iff, eq_comm]

/-- What follows the length field of a framed block has residue 0. -/
theorem xorFold_drop_blk (f : Byte) (p : List Byte) : xorFold ((blk f p).drop 2) = 0x00#8 :=
  (xorFold_residue_iff (f :: p) _).mpr rfl

/-- A command but `DEC` that succeeds leaves in OUT the bytes its delivery says. -/
theorem exec_success_outBytes {i : Instr} {s t : State} (hl : s.params.Legal) (hi : i.format = .cmd3) (hd : i ≠ .dec)
    (h : exec i s = .next t) (hok : t.status = .success) :
    ∃ bs a, s.delivery i = .next (bs, a) ∧ t.outBytes = bs := by
  rcases exec_next_cases hl hi hd h with ⟨f, -, rfl⟩ | ⟨bs, a, u, hdl, rfl, hp⟩
  · exact absurd (congrArg Status.err hok) f.code_ne_zero
  · exact ⟨bs, a, hdl, hp.outBytes⟩

theorem exec_encHdr_outBytes {s t : State} (hl : s.params.Legal) (h : exec .encHdr s = .next t)
    (hok : t.status = .success) : t.outBytes = blk 0x00#8 (packedPayload s.nameBytes s.aDlen s.aAddr) := by
  obtain ⟨bs, a, hd, hout⟩ := exec_success_outBytes (i := .encHdr) hl rfl nofun h hok
  simp only [State.delivery] at hd
  split_ifs at hd
  cases hd
  exact hout

theorem exec_encData_outBytes {s t : State} (hl : s.params.Legal) (h : exec .encData s = .next t)
    (hok : t.status = .success) : t.outBytes = blk 0xFF#8 s.inBytes := by
  obtain ⟨bs, a, hd, hout⟩ := exec_success_outBytes (i := .encData) hl rfl nofun h hok
  simp only [State.delivery] at hd
  split_ifs at hd
  cases hd
  exact hout

theorem exec_encTap_outBytes {s t : State} (hl : s.params.Legal) (h : exec .encTap s = .next t)
    (hok : t.status = .success) :
    t.outBytes = blk 0x00#8 (packedPayload s.nameBytes s.inLen s.aAddr) ++ blk 0xFF#8 s.inBytes := by
  obtain ⟨bs, a, hd, hout⟩ := exec_success_outBytes (i := .encTap) hl rfl nofun h hok
  simp only [State.delivery] at hd
  split_ifs at hd
  cases hd
  exact hout

/-- A block of header size (30_encoding.md R74) and the block behind it, cut apart again, both have residue 0. -/
theorem xorFold_blk_append_blk {p : List Byte} (hp : p.length = 17) (f g : Byte) (q : List Byte) :
    xorFold (((blk f p ++ blk g q).take 21).drop 2) = 0x00#8 ∧ xorFold ((blk f p ++ blk g q).drop 23) = 0x00#8 := by
  have hlen : (blk f p).length = 21 := by rw [blk_length, hp]
  constructor
  · rw [List.take_left' hlen, xorFold_drop_blk]
  · rw [show 23 = (blk f p).length + 2 by rw [hlen], List.drop_length_add_append, xorFold_drop_blk]

/-- Settles O6: `xorFold_residue_iff` of a body as it stands, of the blocks the encoders leave in OUT, and of IN. -/
theorem residueIsZeroExactlyWhenWellFormed : Obligations.ResidueIsZeroExactlyWhenWellFormed := by
  refine ⟨fun flag chk payload => xorFold_residue_iff _ _, fun s t hl hok => ⟨?_, fun h => ?_⟩,
    fun s flag chk payload hin hbytes => ?_⟩
  · rintro (h | h)
    · rw [exec_encHdr_outBytes hl h hok, xorFold_drop_blk]
    · rw [exec_encData_outBytes hl h hok, xorFold_drop_blk]
  · rw [exec_encTap_outBytes hl h hok]
    exact xorFold_blk_append_blk (packedPayload_length _ _ _) _ _ _
  · obtain ⟨u, hu, hp⟩ := exec_csum_produced hin
    refine ⟨_, hu, ?_⟩
    rw [State.commandEnd_acc, hp.acc, hbytes, xorFold_residue_iff]

end Sys2Proof.Machine
end

section
/-! PROOF. The header payload and its block (30_encoding.md R74, R79): the padded name (41_header_encode.md R111), the 16-bit
fields (R114), what `unpack` (44_decode.md R160) makes of a packed payload, and reading a run of bytes by its offsets. -/

namespace Sys2Proof.Machine

/-! ### Bytes of a run, by offset -/

theorem State.memRead_getD (s : State) (sp : Space) (a n i : Nat) (d : Byte) :
    (s.memRead sp a n).getD i d = if i < n then s.byteAt sp (a + i) else d := by
  rw [List.getD_eq_getElem?_getD]
  split
  · rw [State.memRead_getElem? s sp ‹_›, Option.getD_some]
  · rw [List.getElem?_eq_none (by simpa using Nat.not_lt.mp ‹_›), Option.getD_none]

/-- A run within a longer one. -/
theorem State.memRead_slice (s : State) (sp : Space) {a k m n : Nat} (h : k + m ≤ n) :
    s.memRead sp (a + k) m = ((s.memRead sp a n).drop k).take m := by
  rw [← Nat.add_sub_cancel' h, Nat.add_assoc, State.memRead_add, State.memRead_add s sp (a + k),
    List.drop_left' (by simp), List.take_left' (by simp)]

theorem State.byteAt_mem_memRead (s : State) (sp : Space) {a n i : Nat} (h : a ≤ i ∧ i < a + n) :
    s.byteAt sp i ∈ s.memRead sp a n :=
  List.mem_map_of_mem (List.mem_range'_1.mpr h)

theorem State.byteAt_out_of_lt {s : State} {k : Nat} (h : k < s.outLen) :
    s.byteAt .out k = s.outBytes.getD k 0x00#8 := by
  rw [State.outBytes, State.memRead_getD, if_pos h, Nat.zero_add]

theorem State.memRead_out_of_le {s : State} {k m : Nat} (h : k + m ≤ s.outLen) :
    s.memRead .out k m = (s.outBytes.drop k).take m := by
  rw [State.outBytes, ← s.memRead_slice .out h, Nat.zero_add]

/-! ### The name -/

theorem isAscii_iff {b : Byte} : isAscii b = true ↔ b.toNat < 0x80 := decide_eq_true_iff

theorem nameOk_nameBytes_iff {s : State} :
    nameOk s.nameBytes = true ↔ ∀ i < s.nameLen, (s.byteAt .name i).toNat < 0x80 := by
  refine ⟨fun h i hi => isAscii_iff.mp (List.all_eq_true.mp h _ ?_), nameOk_nameBytes⟩
  exact s.byteAt_mem_memRead .name ⟨Nat.zero_le i, by omega⟩

theorem pad10_toList (nm : List Byte) : (pad10 nm).toList = (List.range 10).map fun i => nm.getD i 0x20#8 := rfl

/-- Bytes from offset 10 on are dropped (R111). -/
theorem pad10_take (nm : List Byte) : pad10 (nm.take 10) = pad10 nm := by
  simp [pad10, tenBytes]

/-- Padding an ASCII name leaves ASCII bytes only. -/
theorem pad10_isAscii {nm : List Byte} (h : nameOk nm = true) : (pad10 nm).toList.all isAscii = true := by
  rw [pad10_toList, List.all_map, List.all_eq_true]
  intro i _
  rw [Function.comp_apply, List.getD_eq_getElem?_getD]
  cases hi : nm[i]? with
  | none => decide
  | some b => exact List.all_eq_true.mp h b (List.mem_of_getElem? hi)

/-- The filename field of a name in NAME, by the loop of R111. -/
theorem State.pad10_nameBytes (s : State) :
    (pad10 s.nameBytes).toList =
      (List.range 10).map fun i => if i < min s.nameLen 10 then s.byteAt .name i else 0x20#8 := by
  rw [pad10_toList]
  refine List.map_congr_left fun i hi => ?_
  have hmin : i < min s.nameLen 10 ↔ i < s.nameLen := by
    have := List.mem_range.mp hi
    omega
  rw [State.nameBytes, State.memRead_getD, Nat.zero_add]
  simp only [hmin]

/-! ### The 16-bit fields -/

@[simp] theorem low16_toNat (v : Nat) : (low16 v).toNat = v % 65536 := BitVec.toNat_ofNat v 16

theorem low16_eq_of_mod {v w : Nat} (h : v % 65536 = w % 65536) : low16 v = low16 w :=
  BitVec.eq_of_toNat_eq (by rw [low16_toNat, low16_toNat, h])

theorem le16_low16 (v : Nat) : le16 (low16 v) = [BitVec.ofNat 8 (v % 65536), BitVec.ofNat 8 (v % 65536 / 256)] := by
  have lo : (low16 v).extractLsb' 0 8 = BitVec.ofNat 8 (v % 65536) :=
    BitVec.eq_of_toNat_eq (by rw [le16_lo_toNat, low16_toNat, BitVec.toNat_ofNat])
  have hi : (low16 v).extractLsb' 8 8 = BitVec.ofNat 8 (v % 65536 / 256) :=
    BitVec.eq_of_toNat_eq (by rw [le16_hi_toNat, low16_toNat, BitVec.toNat_ofNat]; omega)
  rw [le16_eq, lo, hi]

/-! ### The payload and its block -/

/-- The payload sees ten bytes of the name and 16 bits of each operand (R111, R114). -/
theorem packedPayload_congr {nm nm' : List Byte} {d d' a a' : Nat} (hn : nm.take 10 = nm'.take 10)
    (hd : d % 65536 = d' % 65536) (ha : a % 65536 = a' % 65536) : packedPayload nm d a = packedPayload nm' d' a' := by
  rw [packedPayload, packedPayload, ← pad10_take nm, hn, pad10_take, low16_eq_of_mod hd, low16_eq_of_mod ha]

/-- Unpacking inverts packing an ASCII name (30_encoding.md R79). -/
theorem unpack_packedPayload {nm : List Byte} (h : nameOk nm = true) (d a : Nat) :
    unpack (packedPayload nm d a) =
      some
        { hType := 0x03#8
          hName := pad10 nm
          hNlen := BitVec.ofNat 4 (trimFrom (pad10 nm).toList 10)
          hDlen := low16 d
          hP1   := low16 a
          hP2   := 0x0000#16 } := by
  have hname : (tenBytes fun i => (packedPayload nm d a).getD (1 + i) 0x00#8) = pad10 nm := rfl
  rw [unpack]
  simp only [hname, if_pos (pad10_isAscii h), Option.some.injEq, Header.mk.injEq, true_and]
  exact ⟨rfl, u16le_le16 (low16 d), u16le_le16 (low16 a), u16le_le16 0x0000#16⟩

/-- A block of a payload of header size: its length field is 0x0013 (R112). -/
theorem blk_of_length_17 {p : List Byte} (hp : p.length = 17) (f : Byte) :
    blk f p = [0x13#8, 0x00#8] ++ (f :: p) ++ [xorFold (f :: p)] := by
  rw [blk, hp]
  rfl

/-- A framed block is the frame whose checksum byte is right. -/
theorem blk_eq_bytes (f : Byte) (p : List Byte) : blk f p = (Frame.mk f p (xorFold (f :: p))).bytes := rfl

end Sys2Proof.Machine
end

section
/-! PROOF. `DEC` of framed blocks (44_decode.md R150): the records of a sequence of frames, and of one header block. -/

namespace Sys2Proof.Machine

/-- `DEC` of a sequence of frames makes their records and no other result (44_decode.md R150, R152). -/
theorem exec_dec_frames {s : State} {fs : List Frame} (hw : s.inLen < 2 ^ s.params.argw)
    (hin : s.inLen ≤ s.params.inMax) (hp : ∀ f ∈ fs, f.payload.length ≤ 65533)
    (hb : s.inBytes = fs.flatMap Frame.bytes) (hroom : ∀ m, s.params.recMax = some m → fs.length ≤ m) :
    ∃ t, exec .dec s = .next t ∧ t.records = recordsFrom 0 fs ∧ t.recCnt = fs.length ∧
      t.warnCnt = (recordsFrom 0 fs).countP BlockRecord.warn ∧
      t.status = { Status.success with warn := (recordsFrom 0 fs).any BlockRecord.warn } ∧
      t.outLen = 0 ∧ t.acc = 0x00#8 := by
  have hfour : 4 * fs.length ≤ s.inLen := by
    rw [← s.inBytes_length, hb]
    exact four_mul_length_le_flatMap_bytes fs
  have hexec : exec .dec s = s.commandStart.scan (s.inLen / 4 + 1) := if_neg (Nat.not_lt.mpr hin)
  obtain ⟨t, ht, -, hrc, hrec, hwc, hst, hout, hacc⟩ :=
    State.scan_frames (n := s.inLen / 4 + 1) (State.Scanning.commandStart hw) hp (s.commandStart_rest.trans hb)
      (fun m hm => by simpa using hroom m (by simpa using hm)) (by omega)
  refine ⟨t, hexec.trans ht, ?_, by simpa using hrc, by simpa using hwc, ?_, by simpa using hout, by simpa using hacc⟩
  · simpa [State.records] using hrec
  · simpa [Status.ended, Status.started, Status.success] using hst

/-- `DEC` of one header block whose payload unpacks makes one record, with that header (44_decode.md R159, R160). -/
theorem exec_dec_headerBlock {s : State} {p : List Byte} {h : Header} (hl : s.params.Legal) (hp : p.length = 17)
    (hu : unpack p = some h) (hb : s.inBytes = blk 0x00#8 p) (hin : s.inLen ≤ s.params.inMax)
    (hroom : ∀ m, s.params.recMax = some m → 1 ≤ m) :
    ∃ t r, exec .dec s = .next t ∧ t.records = [r] ∧ t.status = .success ∧ r.header = some h := by
  have hlen : s.inLen = 21 := by rw [← s.inBytes_length, hb, blk_length, hp]
  have hshape : (Frame.mk 0x00#8 p (xorFold (0x00#8 :: p))).headerShaped = true :=
    Frame.headerShaped_iff.mpr ⟨rfl, hp⟩
  obtain ⟨t, ht, hrec, -, -, hst, -⟩ := exec_dec_frames (fs := [⟨0x00#8, p, xorFold (0x00#8 :: p)⟩])
    (lt_width_of_legal hl (by omega)) hin (by simp [hp]) (by simpa [blk_eq_bytes] using hb) hroom
  refine ⟨t, _, ht, hrec, ?_, ?_⟩
  · simp [hst, recordsFrom, Frame.record, hshape, hu, Status.success]
  · simp [Frame.record, hshape, hu]

end Sys2Proof.Machine
end

section
/-! PROOF. `ENC_HDR` (41_header_encode.md R116): the name check (R113), and on success the block of the packed payload. -/

namespace Sys2Proof.Machine

/-- A name that fails the check of R113 is a fault raised before anything is emitted. -/
theorem exec_encHdr_badName {s : State} (hn : s.nameLen ≤ s.params.nameMax) (hbad : nameOk s.nameBytes = false) :
    exec .encHdr s = .next (s.commandStart.raise .encodingError) := by
  simp [exec, execEncHdr, Nat.not_lt.mpr hn, hbad]

/-- Settles O9: the fault of `exec_encHdr_badName` writes none of OUT. -/
theorem encHdrRejectsNonAsciiNames : Obligations.EncHdrRejectsNonAsciiNames := by
  intro s hn ⟨i, hi, hbyte⟩
  have hbad : nameOk s.nameBytes = false := by
    rw [Bool.eq_false_iff, ne_eq, nameOk_nameBytes_iff]
    exact fun h => absurd (h i hi) (Nat.not_lt.mpr hbyte)
  refine ⟨_, exec_encHdr_badName hn hbad, rfl, by simp, by simp, fun a => ?_⟩
  exact ((State.SameFixed.commandStart s).trans (State.SameFixed.raise _ _)).byteAt .out a

/-- An all-ASCII name within the capacities: the block of the packed payload is emitted, its checksum stands in `ACC`. -/
theorem exec_encHdr_produced {s : State} (hl : s.params.Legal) (hn : s.nameLen ≤ s.params.nameMax)
    (ho : 21 ≤ s.params.outMax) (ha : nameOk s.nameBytes = true) :
    ∃ u, exec .encHdr s = .next u.commandEnd ∧
      s.Produced u (blk 0x00#8 (packedPayload s.nameBytes s.aDlen s.aAddr))
        (xorFold (0x00#8 :: packedPayload s.nameBytes s.aDlen s.aAddr)) := by
  have hd : s.delivery .encHdr = .next (blk 0x00#8 (packedPayload s.nameBytes s.aDlen s.aAddr),
      xorFold (0x00#8 :: packedPayload s.nameBytes s.aDlen s.aAddr)) := by
    simp [State.delivery, Nat.not_lt.mpr hn, Nat.not_lt.mpr ho, ha]
  have hans := execEncHdr_answers hl
  rw [hd] at hans
  exact hans

/-- The bytes of an emitted header block's body, as R112 lists them. -/
theorem State.packedPayload_operands (s : State) :
    0x00#8 :: packedPayload s.nameBytes s.aDlen s.aAddr =
      [0x00#8, 0x03#8] ++
        (List.range 10).map (fun i => if i < min s.nameLen 10 then s.byteAt .name i else 0x20#8) ++
        [BitVec.ofNat 8 (s.aDlen % 65536), BitVec.ofNat 8 (s.aDlen % 65536 / 256),
         BitVec.ofNat 8 (s.aAddr % 65536), BitVec.ofNat 8 (s.aAddr % 65536 / 256), 0x00#8, 0x00#8] := by
  rw [packedPayload, headerPayload, s.pad10_nameBytes, le16_low16, le16_low16]
  simp [le16]

/-- Settles O8: what `exec_encHdr_produced` leaves, the block written out. -/
theorem encHdrEmitsTheHeaderBlock : Obligations.EncHdrEmitsTheHeaderBlock := by
  intro s hl hn ho ha
  obtain ⟨u, hu, hp⟩ := exec_encHdr_produced hl hn ho (nameOk_nameBytes ha)
  refine ⟨_, _, hu, s.packedPayload_operands, ?_, ?_, hp.acc, hp.commandEnd_status, hp.recCnt, hp.warnCnt⟩
  · exact hp.outBytes.trans (blk_of_length_17 (packedPayload_length _ _ _) _)
  · simpa using hp.outLen

/-- A successful `ENC_HDR` has found the name to be ASCII, and `ACC` keeps the block's checksum. -/
theorem exec_encHdr_nameOk_acc {s t : State} (hl : s.params.Legal) (h : exec .encHdr s = .next t)
    (hok : t.status = .success) :
    nameOk s.nameBytes = true ∧ t.acc = xorFold (0x00#8 :: packedPayload s.nameBytes s.aDlen s.aAddr) := by
  rcases exec_next_cases (i := .encHdr) hl rfl nofun h with ⟨f, -, rfl⟩ | ⟨bs, a, u, hd, rfl, hp⟩
  · exact absurd (congrArg Status.err hok) f.code_ne_zero
  · simp only [State.delivery] at hd
    split_ifs at hd with _ hbad
    cases hd
    exact ⟨eq_true_of_ne_false hbad, hp.acc⟩

/-- Settles O10: by `packedPayload_congr`, since a success leaves the payload's block and checksum. -/
theorem encHdrSeesTenNameBytesAndLowHalves : Obligations.EncHdrSeesTenNameBytesAndLowHalves := by
  intro s u t v hs hu hn hd ha ht hv hts hvs
  obtain ⟨-, hacc⟩ := exec_encHdr_nameOk_acc hs ht hts
  obtain ⟨-, hacc'⟩ := exec_encHdr_nameOk_acc hu hv hvs
  rw [exec_encHdr_outBytes hs ht hts, exec_encHdr_outBytes hu hv hvs, hacc, hacc', packedPayload_congr hn hd ha]
  exact ⟨rfl, rfl⟩

/-- Settles O22: the bytes and runs of OUT are those of the block at their offsets; `DEC` of it is `exec_dec_headerBlock`. -/
theorem encHdrOutputProperties : Obligations.EncHdrOutputProperties := by
  intro s t hl h hok
  obtain ⟨hn, -⟩ := exec_encHdr_nameOk_acc hl h hok
  have hblk := exec_encHdr_outBytes hl h hok
  have hout := hblk.trans (blk_of_length_17 (packedPayload_length _ _ _) _)
  have hlen : t.outLen = 21 := by rw [← t.outBytes_length, hblk, blk_length, packedPayload_length]
  have hbyte : ∀ k < 21, t.byteAt .out k = t.outBytes.getD k 0x00#8 :=
    fun k hk => State.byteAt_out_of_lt (by omega)
  have hrun : ∀ k m, k + m ≤ 21 → t.memRead .out k m = (t.outBytes.drop k).take m :=
    fun k m hk => State.memRead_out_of_le (by omega)
  rw [hout] at hbyte hrun
  have hname : t.memRead .out 4 10 = (pad10 s.nameBytes).toList := hrun 4 10 (by decide)
  have hbody : t.memRead .out 2 18 = 0x00#8 :: packedPayload s.nameBytes s.aDlen s.aAddr := hrun 2 18 (by decide)
  refine ⟨hlen, hbyte 0 (by decide), hbyte 1 (by decide), hbyte 2 (by decide), hbyte 3 (by decide),
    fun i h4 h13 => ?ascii, hbyte 18 (by decide), hbyte 19 (by decide), ?checksum, ?residue,
    fun u hu hb hin hroom => ?decoded⟩
  case ascii =>
    have hmem := t.byteAt_mem_memRead .out (a := 4) (n := 10) (i := i) ⟨h4, by omega⟩
    rw [hname] at hmem
    exact isAscii_iff.mp (List.all_eq_true.mp (pad10_isAscii hn) _ hmem)
  case checksum =>
    rw [hbody]
    exact hbyte 20 (by decide)
  case residue =>
    have hrest : t.memRead .out 2 19 =
        0x00#8 :: packedPayload s.nameBytes s.aDlen s.aAddr ++
          [xorFold (0x00#8 :: packedPayload s.nameBytes s.aDlen s.aAddr)] := hrun 2 19 (by decide)
    rw [hrest, xorFold_residue_iff]
  case decoded =>
    obtain ⟨v, r, hv, hrec, hst, hhd⟩ := exec_dec_headerBlock (hu ▸ hl) (packedPayload_length _ _ _)
      (unpack_packedPayload hn _ _) (hb.trans hblk) hin hroom
    exact ⟨v, r, _, hv, hrec, hst, hhd, rfl, hname.symm, low16_toNat _, low16_toNat _, rfl⟩

end Sys2Proof.Machine
end

section
/-! PROOF. `ENC_DATA` (42_data_encode.md R133): the size check (R132), on success the data block of IN (R131), and `DEC`
of that block. -/

namespace Sys2Proof.Machine

/-! ### The size check -/

/-- A payload beyond 65533 bytes is a fault raised before anything is emitted (R132). -/
theorem exec_encData_oversized {s : State} (hin : s.inLen ≤ s.params.inMax) (hsz : 65533 < s.inLen) :
    exec .encData s = .next (s.commandStart.raise .sizeExceeded) := by
  simp [exec, execEncData, Nat.not_lt.mpr hin, sizeExceeded_eq_true_iff.mpr hsz]

/-- Settles O12: the fault of `exec_encData_oversized` writes none of OUT. -/
theorem encDataRejectsOversizedPayloads : Obligations.EncDataRejectsOversizedPayloads := by
  intro s hin hsz
  refine ⟨_, exec_encData_oversized hin hsz, rfl, by simp, by simp, fun a => ?_⟩
  exact ((State.SameFixed.commandStart s).trans (State.SameFixed.raise _ _)).byteAt .out a

/-! ### The emitted block -/

/-- A payload that passes the size check, within the capacities: its block is emitted, its checksum stands in `ACC`. -/
theorem exec_encData_produced {s : State} (hl : s.params.Legal) (hin : s.inLen ≤ s.params.inMax)
    (hsz : s.inLen ≤ 65533) (ho : s.inLen + 4 ≤ s.params.outMax) :
    ∃ u, exec .encData s = .next u.commandEnd ∧
      s.Produced u (blk 0xFF#8 s.inBytes) (xorFold (0xFF#8 :: s.inBytes)) := by
  have hd : s.delivery .encData = .next (blk 0xFF#8 s.inBytes, xorFold (0xFF#8 :: s.inBytes)) := by
    simp [State.delivery, Nat.not_lt.mpr hin, Nat.not_lt.mpr ho, sizeExceeded_eq_false hsz]
  have hans := execEncData_answers hl
  rw [hd] at hans
  exact hans

/-- A block whose payload passes the size check, its length field written out: it does not wrap (R132). -/
theorem blk_of_length_le {p : List Byte} (hp : p.length ≤ 65533) (f : Byte) :
    blk f p =
      [BitVec.ofNat 8 (p.length + 2), BitVec.ofNat 8 ((p.length + 2) / 256), f] ++ p ++ [xorFold (f :: p)] := by
  have hlen : le16 (BitVec.ofNat 16 (p.length + 2)) =
      [BitVec.ofNat 8 (p.length + 2), BitVec.ofNat 8 ((p.length + 2) / 256)] := by
    rw [← low16, le16_low16, Nat.mod_eq_of_lt (by omega)]
  rw [blk, hlen]
  rfl

/-- Settles O11: what `exec_encData_produced` leaves, the block written out. -/
theorem encDataEmitsTheDataBlock : Obligations.EncDataEmitsTheDataBlock := by
  intro s hl hin hsz ho
  obtain ⟨u, hu, hp⟩ := exec_encData_produced hl hin hsz ho
  refine ⟨_, hu, hp.outBytes.trans ?_, ?_, hp.acc, hp.commandEnd_status, hp.recCnt, hp.warnCnt⟩
  · simpa using blk_of_length_le (p := s.inBytes) (by simpa using hsz) 0xFF#8
  · simpa using hp.outLen

/-- A successful `ENC_DATA` has passed the size check. -/
theorem exec_encData_inLen_le {s t : State} (hl : s.params.Legal) (h : exec .encData s = .next t)
    (hok : t.status = .success) : s.inLen ≤ 65533 := by
  obtain ⟨bs, a, hd, -⟩ := exec_success_outBytes (i := .encData) hl rfl nofun h hok
  simp only [State.delivery] at hd
  split_ifs at hd with _ hsz
  exact Nat.not_lt.mp (mt sizeExceeded_eq_true_iff.mpr hsz)

/-! ### Reading a block in OUT -/

section
variable {t : State} {f : Byte} {p : List Byte} (h : t.outBytes = blk f p)
include h

theorem State.outLen_of_blk : t.outLen = p.length + 4 := by
  rw [← t.outBytes_length, h, blk_length]

/-- The length field, read back as R135 reads it. -/
theorem State.u16le_out_of_blk : u16le (t.byteAt .out 0) (t.byteAt .out 1) = BitVec.ofNat 16 (p.length + 2) := by
  have hlen := State.outLen_of_blk h
  rw [State.byteAt_out_of_lt (by omega), State.byteAt_out_of_lt (by omega), h]
  exact u16le_le16 _

/-- What follows the length field: the body and the checksum. -/
theorem State.memRead_out_tail_of_blk : t.memRead .out 2 (p.length + 2) = f :: p ++ [xorFold (f :: p)] := by
  have hlen := State.outLen_of_blk h
  rw [State.memRead_out_of_le (by omega), h]
  exact List.take_of_length_le (by simp)

/-- The body: the flag and the payload. -/
theorem State.memRead_out_body_of_blk : t.memRead .out 2 (p.length + 1) = f :: p := by
  have hslice := t.memRead_slice .out (a := 2) (k := 0) (m := p.length + 1) (n := p.length + 2) (by omega)
  rw [State.memRead_out_tail_of_blk h] at hslice
  exact hslice.trans (List.take_left' rfl)

theorem State.memRead_out_payload_of_blk : t.memRead .out 3 p.length = p := by
  have hslice := t.memRead_slice .out (a := 2) (k := 1) (m := p.length) (n := p.length + 1) (by omega)
  rw [State.memRead_out_body_of_blk h] at hslice
  exact hslice.trans List.take_length

theorem State.byteAt_out_flag_of_blk : t.byteAt .out 2 = f := by
  rw [State.byteAt_out_of_lt (by rw [State.outLen_of_blk h]; omega), h]
  rfl

theorem State.byteAt_out_checksum_of_blk : t.byteAt .out (p.length + 3) = xorFold (f :: p) := by
  have hlen : (le16 (BitVec.ofNat 16 (p.length + 2)) ++ [f] ++ p).length = p.length + 3 := by
    rw [List.length_append, List.length_append, le16_length, List.length_singleton]
    omega
  rw [State.byteAt_out_of_lt (by rw [State.outLen_of_blk h]; omega), h, blk, List.getD_eq_getElem?_getD, ← hlen,
    List.getElem?_concat_length, Option.getD_some]

end

/-! ### `DEC` of the block -/

/-- `DEC` of one block whose flag is no header's (R80) makes one record, with no header and no warning (R162). -/
theorem exec_dec_blk_of_flag_ne_zero {s : State} {f : Byte} {p : List Byte} (hl : s.params.Legal) (hf : f ≠ 0x00#8)
    (hp : p.length ≤ 65533) (hb : s.inBytes = blk f p) (hin : s.inLen ≤ s.params.inMax)
    (hroom : ∀ m, s.params.recMax = some m → 1 ≤ m) :
    ∃ t r, exec .dec s = .next t ∧ t.records = [r] ∧ t.status = .success ∧
      r.length = BitVec.ofNat 16 (p.length + 2) ∧ r.flag = f ∧ r.payload = p ∧ r.header = none ∧ r.warn = false := by
  have hlen : s.inLen = p.length + 4 := by rw [← s.inBytes_length, hb, blk_length]
  have hshape : (Frame.mk f p (xorFold (f :: p))).headerShaped = false :=
    Bool.eq_false_iff.mpr fun hh => hf (Frame.headerShaped_iff.mp hh).1
  obtain ⟨t, ht, hrec, -, -, hst, -⟩ := exec_dec_frames (fs := [⟨f, p, xorFold (f :: p)⟩])
    (lt_width_of_legal hl (by omega)) hin (by simpa using hp) (by simpa [blk_eq_bytes] using hb) hroom
  refine ⟨t, _, ht, hrec, ?_, rfl, rfl, rfl, ?_, ?_⟩
  · simp [hst, recordsFrom, Frame.record, hshape, Status.success]
  · simp [Frame.record, hshape]
  · simp [Frame.record, hshape]

/-- Settles O23: the parts of the data block stand in OUT at their offsets; `DEC` of it is `exec_dec_blk_of_flag_ne_zero`,
since the flag 0xFF is no header's. -/
theorem encDataOutputProperties : Obligations.EncDataOutputProperties := by
  intro s t hl h hok
  have hblk := exec_encData_outBytes hl h hok
  have hsz : s.inBytes.length ≤ 65533 := by simpa using exec_encData_inLen_le hl h hok
  have hfield : (BitVec.ofNat 16 (s.inBytes.length + 2)).toNat = s.inBytes.length + 2 := by
    rw [BitVec.toNat_ofNat, Nat.mod_eq_of_lt (by omega)]
  rw [← s.inBytes_length, State.outLen_of_blk hblk, State.u16le_out_of_blk hblk]
  refine ⟨hfield, State.byteAt_out_flag_of_blk hblk, rfl, State.memRead_out_payload_of_blk hblk, ?checksum, ?residue,
    fun u hu hb hin hroom => ?decoded⟩
  case checksum =>
    have hchk := State.byteAt_out_checksum_of_blk hblk
    rwa [← State.memRead_out_body_of_blk hblk] at hchk
  case residue =>
    have hres := (xorFold_residue_iff (0xFF#8 :: s.inBytes) _).mpr rfl
    rwa [← State.memRead_out_tail_of_blk hblk] at hres
  case decoded =>
    obtain ⟨v, r, hv, hrec, hst, hlen, hrest⟩ :=
      exec_dec_blk_of_flag_ne_zero (hu ▸ hl) (by decide) hsz (hb.trans hblk) hin hroom
    exact ⟨v, r, hv, hrec, hst, hlen ▸ hfield, hrest⟩

end Sys2Proof.Machine
end

section
/-! PROOF. The parsed filename (44_decode.md R160, 43_tap_assemble.md R144): trimming drops the trailing spaces of the name
and no more. -/

namespace Sys2Proof.Machine

/-- What the trimming loop passes over is all spaces. -/
theorem take_trimFrom_append_spaces (nm : List Byte) {k : Nat} (hk : k ≤ nm.length) :
    nm.take (trimFrom nm k) ++ List.replicate (k - trimFrom nm k) 0x20#8 = nm.take k := by
  induction k with
  | zero => rfl
  | succ k ih =>
    have hlt : k < nm.length := hk
    rw [trimFrom, List.getD_eq_getElem _ _ hlt]
    split
    · next hspace =>
      have hle := trimFrom_le nm k
      rw [Nat.succ_sub hle, List.replicate_succ', ← List.append_assoc, ih hlt.le, ← hspace,
        List.take_append_getElem hlt]
    · simp

/-- The trimming loop stops at a byte that is no space, if it stops before 0. -/
theorem getLast?_take_trimFrom_ne_space (nm : List Byte) {k : Nat} (hk : k ≤ nm.length) :
    (nm.take (trimFrom nm k)).getLast? ≠ some 0x20#8 := by
  induction k with
  | zero => simp [trimFrom]
  | succ k ih =>
    have hlt : k < nm.length := hk
    rw [trimFrom, List.getD_eq_getElem _ _ hlt]
    split
    · exact ih hlt.le
    · next hbyte =>
      rw [← List.take_append_getElem hlt, List.getLast?_concat]
      simpa using hbyte

/-- `H_NLEN` of an unpacked header is where the trimming of its name stops. -/
theorem unpack_hNlen {p : List Byte} {h : Header} (hu : unpack p = some h) :
    h.hNlen.toNat = trimFrom h.hName.toList 10 := by
  unfold unpack at hu
  simp only at hu
  split at hu
  · cases hu
    have := trimFrom_le (tenBytes fun i => p.getD (1 + i) 0x00#8).toList 10
    rw [BitVec.toNat_ofNat, Nat.mod_eq_of_lt (by omega)]
  · cases hu

section
variable {p : List Byte} {h : Header} (hu : unpack p = some h)
include hu

theorem unpack_fileName : h.fileName = h.hName.toList.take (trimFrom h.hName.toList 10) := by
  rw [Header.fileName, unpack_hNlen hu]

/-- The name field is the parsed filename padded with spaces. -/
theorem unpack_hName_eq_fileName_padded :
    h.hName.toList = h.fileName ++ List.replicate (10 - h.fileName.length) 0x20#8 := by
  have hten : h.hName.toList.length = 10 := h.hName.length_toList
  have hlen : h.fileName.length = trimFrom h.hName.toList 10 := by
    rw [unpack_fileName hu, List.length_take, hten, Nat.min_eq_left (trimFrom_le _ _)]
  rw [hlen, unpack_fileName hu, take_trimFrom_append_spaces _ hten.ge, List.take_of_length_le hten.le]

/-- The parsed filename has no trailing space. -/
theorem unpack_fileName_getLast?_ne_space : h.fileName.getLast? ≠ some 0x20#8 := by
  rw [unpack_fileName hu]
  exact getLast?_take_trimFrom_ne_space _ h.hName.length_toList.ge

end

end Sys2Proof.Machine
end

section
/-! PROOF. `ENC_TAP` (43_tap_assemble.md R142): the name check, then the size check (R143), on success the header block with
`IN_LEN` as data length (R141) and the data block; and `DEC` of the two (R144). -/

namespace Sys2Proof.Machine

/-! ### The checks -/

/-- A name that fails the check is a fault raised before anything is emitted, whatever the size (R143). -/
theorem exec_encTap_badName {s : State} (hin : s.inLen ≤ s.params.inMax) (hn : s.nameLen ≤ s.params.nameMax)
    (hbad : nameOk s.nameBytes = false) : exec .encTap s = .next (s.commandStart.raise .encodingError) := by
  simp [exec, execEncTap, Nat.not_lt.mpr hin, Nat.not_lt.mpr hn, hbad]

/-- A good name and a payload beyond 65533 bytes are a fault raised before anything is emitted (R143). -/
theorem exec_encTap_oversized {s : State} (hin : s.inLen ≤ s.params.inMax) (hn : s.nameLen ≤ s.params.nameMax)
    (ha : nameOk s.nameBytes = true) (hsz : 65533 < s.inLen) :
    exec .encTap s = .next (s.commandStart.raise .sizeExceeded) := by
  simp [exec, execEncTap, Nat.not_lt.mpr hin, Nat.not_lt.mpr hn, ha, sizeExceeded_eq_true_iff.mpr hsz]

/-- The name check fails on a name with a byte beyond ASCII, at any place (41_header_encode.md R113). -/
theorem nameOk_nameBytes_eq_false {s : State} (h : ∃ i < s.nameLen, 0x80 ≤ (s.byteAt .name i).toNat) :
    nameOk s.nameBytes = false := by
  obtain ⟨i, hi, hbyte⟩ := h
  rw [Bool.eq_false_iff, ne_eq, nameOk_nameBytes_iff]
  exact fun hall => absurd (hall i hi) (Nat.not_lt.mpr hbyte)

/-- A fault raised at the command start leaves OUT as it was (60_exceptions.md R186). -/
theorem State.commandStart_raise_byteAt (s : State) (f : TapFault) (sp : Space) (a : Nat) :
    (s.commandStart.raise f).byteAt sp a = s.byteAt sp a :=
  ((State.SameFixed.commandStart s).trans (State.SameFixed.raise _ f)).byteAt sp a

/-- Settles O14: the faults of `exec_encTap_badName` and `exec_encTap_oversized` write none of OUT. -/
theorem encTapChecksNameThenSize : Obligations.EncTapChecksNameThenSize := by
  intro s hin hn
  constructor
  · intro hbad
    exact ⟨_, exec_encTap_badName hin hn (nameOk_nameBytes_eq_false hbad), rfl, by simp,
      s.commandStart_raise_byteAt _ .out⟩
  · intro ha hsz
    exact ⟨_, exec_encTap_oversized hin hn (nameOk_nameBytes ha) hsz, rfl, by simp, s.commandStart_raise_byteAt _ .out⟩

/-! ### The emitted blocks -/

/-- An all-ASCII name and a payload that passes the size check, within the capacities: both blocks are emitted, and `ACC`
keeps the data block's checksum. -/
theorem exec_encTap_produced {s : State} (hl : s.params.Legal) (hin : s.inLen ≤ s.params.inMax)
    (hn : s.nameLen ≤ s.params.nameMax) (ha : nameOk s.nameBytes = true) (hsz : s.inLen ≤ 65533)
    (ho : s.inLen + 25 ≤ s.params.outMax) :
    ∃ u, exec .encTap s = .next u.commandEnd ∧
      s.Produced u (blk 0x00#8 (packedPayload s.nameBytes s.inLen s.aAddr) ++ blk 0xFF#8 s.inBytes)
        (xorFold (0xFF#8 :: s.inBytes)) := by
  have hd : s.delivery .encTap =
      .next (blk 0x00#8 (packedPayload s.nameBytes s.inLen s.aAddr) ++ blk 0xFF#8 s.inBytes,
        xorFold (0xFF#8 :: s.inBytes)) := by
    simp [State.delivery, Nat.not_lt.mpr hin, Nat.not_lt.mpr hn, Nat.not_lt.mpr ho, ha, sizeExceeded_eq_false hsz]
  have hans := execEncTap_answers hl
  rw [hd] at hans
  exact hans

/-- Settles O13: the two blocks of `exec_encTap_produced` are the ones the other encoders emit. -/
theorem encTapIsHeaderThenData : Obligations.EncTapIsHeaderThenData := by
  intro s hl hin hn ha hsz ho
  have hname := nameOk_nameBytes ha
  obtain ⟨t, ht, htap⟩ := exec_encTap_produced hl hin hn hname hsz ho
  obtain ⟨h, hh, hhdr⟩ := exec_encHdr_produced (s := { s with aDlen := s.inLen }) hl hn (by simp only; omega) hname
  obtain ⟨d, hd, hdat⟩ := exec_encData_produced hl hin hsz (by omega)
  refine ⟨_, _, _, ht, hh, hd, ?out, ?hdrLen, ?tapLen, htap.acc.trans hdat.acc.symm, htap.commandEnd_status,
    htap.recCnt, htap.warnCnt⟩
  case out => exact htap.outBytes.trans (congrArg₂ (· ++ ·) hhdr.outBytes hdat.outBytes).symm
  case hdrLen => simpa using hhdr.outLen
  case tapLen =>
    rw [State.commandEnd_outLen, htap.outLen, List.length_append, blk_length, blk_length, packedPayload_length,
      s.inBytes_length]
    omega

/-! ### `DEC` of the blocks -/

/-- The record of a header-shaped frame that unpacks (44_decode.md R159, R160). -/
theorem Frame.record_of_unpack {f : Frame} {h : Header} (hflag : f.flag = 0x00#8) (hp : f.payload.length = 17)
    (hu : unpack f.payload = some h) (off : Nat) :
    (f.record off).length = 0x0013#16 ∧ (f.record off).header = some h ∧ (f.record off).warn = false := by
  have hshape := Frame.headerShaped_iff.mpr ⟨hflag, hp⟩
  simp [Frame.record, hp, hshape, hu]

/-- The record of a frame whose flag is no header's (44_decode.md R162). -/
theorem Frame.record_of_flag_ne_zero {f : Frame} (hflag : f.flag ≠ 0x00#8) (off : Nat) :
    (f.record off).header = none ∧ (f.record off).warn = false := by
  have hshape : f.headerShaped = false := Bool.eq_false_iff.mpr fun h => hflag (Frame.headerShaped_iff.mp h).1
  simp [Frame.record, hshape]

/-- `DEC` of a header block that unpacks and a block whose flag is no header's: their two records, no warning. -/
theorem exec_dec_headerBlock_append_blk {s : State} {p q : List Byte} {h : Header} {f : Byte} (hl : s.params.Legal)
    (hp : p.length = 17) (hu : unpack p = some h) (hf : f ≠ 0x00#8) (hq : q.length ≤ 65533)
    (hb : s.inBytes = blk 0x00#8 p ++ blk f q) (hin : s.inLen ≤ s.params.inMax)
    (hroom : ∀ m, s.params.recMax = some m → 2 ≤ m) :
    ∃ t r d, exec .dec s = .next t ∧ t.records = [r, d] ∧ t.recCnt = 2 ∧ t.warnCnt = 0 ∧ t.status = .success ∧
      r.length = 0x0013#16 ∧ r.flag = 0x00#8 ∧ r.header = some h ∧
      d.length = BitVec.ofNat 16 (q.length + 2) ∧ d.flag = f ∧ d.payload = q ∧ d.payOff = 24 ∧ d.header = none := by
  have hlen : s.inLen = q.length + 25 := by
    rw [← s.inBytes_length, hb, List.length_append, blk_length, blk_length, hp]
    omega
  have hr := Frame.record_of_unpack (f := ⟨0x00#8, p, xorFold (0x00#8 :: p)⟩) rfl hp hu
  have hd := Frame.record_of_flag_ne_zero (f := ⟨f, q, xorFold (f :: q)⟩) hf
  obtain ⟨t, ht, hrec, hrc, hwc, hst, -⟩ :=
    exec_dec_frames (fs := [⟨0x00#8, p, xorFold (0x00#8 :: p)⟩, ⟨f, q, xorFold (f :: q)⟩])
      (lt_width_of_legal hl (by omega)) hin (by simp [hp, hq]) (by simpa [blk_eq_bytes] using hb) hroom
  obtain ⟨hlength, hheader, -⟩ := hr 0
  refine ⟨t, _, _, ht, hrec, hrc, ?warnCnt, ?status, hlength, rfl, hheader, rfl, rfl, rfl, ?payOff, (hd _).1⟩
  case warnCnt => simp [hwc, recordsFrom, hr, hd]
  case status => simp [hst, recordsFrom, hr, hd, Status.success]
  case payOff => simp [Frame.record, hp]

/-- Settles O21: OUT holds the two blocks of `exec_encTap_produced`, `DEC` of them is `exec_dec_headerBlock_append_blk`, and
the header that went in is unpacked (`unpack_packedPayload`), its name trimmed. -/
theorem decodeOfEncodeTapRoundTrip : Obligations.DecodeOfEncodeTapRoundTrip := by
  intro s t u hl hn hin ha hsz ho ht hparams hbytes hfit hroom
  have hname := nameOk_nameBytes ha
  obtain ⟨x, hx, hprod⟩ := exec_encTap_produced hl hin hn hname hsz ho
  cases ht.symm.trans hx
  have hu := unpack_packedPayload hname s.inLen s.aAddr
  obtain ⟨v, r, d, hv, hrec, hrc, hwc, hst, hrlen, hrflag, hrhdr, hdlen, hdrest⟩ :=
    exec_dec_headerBlock_append_blk (hparams ▸ hl) (packedPayload_length _ _ _) hu (f := 0xFF#8) (by decide)
      (by simpa using hsz) (hbytes.trans hprod.outBytes) hfit hroom
  refine ⟨v, r, d, _, hv, hrec, hrc, hwc, hst, hrlen, hrflag, hrhdr, rfl, ?name, unpack_hName_eq_fileName_padded hu,
    unpack_fileName_getLast?_ne_space hu, ?dlen, low16_toNat _, rfl, ?length, hdrest⟩
  case name => simp only [pad10_toList, State.nameBytes, State.memRead_getD, Nat.zero_add]
  case dlen => rw [low16_toNat, Nat.mod_eq_of_lt (by omega)]
  case length => rw [hdlen, s.inBytes_length, BitVec.toNat_ofNat, Nat.mod_eq_of_lt (by omega)]

end Sys2Proof.Machine
end

section
/-! PROOF. `DEC` of a whole stream (44_decode.md R150, R158, R167): the records of a sequence of frames tile its bytes, and a
`DEC` that ends without a fault has decoded such a sequence. -/

namespace Sys2Proof.Machine

/-! ### The records of a sequence of frames -/

/-- The records of frames one after another: the second sequence starts where the first one's bytes end. -/
theorem recordsFrom_append (off : Nat) (fs gs : List Frame) :
    recordsFrom off (fs ++ gs) = recordsFrom off fs ++ recordsFrom (off + (fs.flatMap Frame.bytes).length) gs := by
  induction fs generalizing off with
  | nil => rfl
  | cons f fs ih =>
    rw [List.cons_append, recordsFrom, ih, recordsFrom, List.cons_append, List.flatMap_cons, List.length_append,
      Frame.bytes_length, Nat.add_assoc off]

/-- Frames that start later make the same records, moved on. -/
theorem recordsFrom_add (off k : Nat) (fs : List Frame) :
    recordsFrom (off + k) fs = (recordsFrom off fs).map (shiftRecord k) := by
  induction fs generalizing off with
  | nil => rfl
  | cons f fs ih =>
    have hrec : f.record (off + k) = shiftRecord k (f.record off) := by
      simp only [Frame.record, shiftRecord, Nat.add_right_comm off k 3]
    rw [recordsFrom, recordsFrom, List.map_cons, hrec, Nat.add_right_comm, ih]

/-- Framed again, the records are the frames' bytes (44_decode.md R167 (b)). -/
theorem flatMap_frame_recordsFrom (off : Nat) (fs : List Frame) :
    (recordsFrom off fs).flatMap BlockRecord.frame = fs.flatMap Frame.bytes := by
  induction fs generalizing off with
  | nil => rfl
  | cons f fs ih =>
    rw [recordsFrom, List.flatMap_cons, List.flatMap_cons, ih]
    rfl

/-- The record at an index is that of the frame there, at the offset where the frames before it end. -/
theorem recordsFrom_getElem? (off : Nat) (fs : List Frame) (i : Nat) :
    (recordsFrom off fs)[i]? = fs[i]?.map fun f => f.record (off + ((fs.take i).flatMap Frame.bytes).length) := by
  induction fs generalizing off i with
  | nil => rfl
  | cons f fs ih =>
    cases i with
    | zero => rfl
    | succ i =>
      rw [recordsFrom, List.getElem?_cons_succ, List.getElem?_cons_succ, ih, List.take_succ_cons, List.flatMap_cons,
        List.length_append, Frame.bytes_length, Nat.add_assoc off]

theorem Frame.record_length_toNat {f : Frame} (hp : f.payload.length ≤ 65533) (off : Nat) :
    (f.record off).length.toNat = f.payload.length + 2 :=
  (Frame.record_ok off hp).payloadLength.symm

/-- Each payload starts at the fixed distance behind the end of the block before it (44_decode.md R167 (b)). -/
theorem recordsFrom_payOff_succ {off i : Nat} {fs : List Frame} {r q : BlockRecord}
    (hp : ∀ f ∈ fs, f.payload.length ≤ 65533) (hr : (recordsFrom off fs)[i]? = some r)
    (hq : (recordsFrom off fs)[i + 1]? = some q) : q.payOff = r.payOff + r.length.toNat + 2 := by
  rw [recordsFrom_getElem?, Option.map_eq_some_iff] at hr hq
  obtain ⟨f, hf, rfl⟩ := hr
  obtain ⟨g, -, rfl⟩ := hq
  have htake : fs.take (i + 1) = fs.take i ++ [f] := by rw [List.take_add_one, hf, Option.toList_some]
  rw [Frame.record_length_toNat (hp f (List.mem_of_getElem? hf)), htake, List.flatMap_append, List.length_append,
    List.flatMap_singleton, Frame.bytes_length]
  simp only [Frame.record]
  omega

/-- The last block ends where the frames do (44_decode.md R167 (b)). -/
theorem recordsFrom_getLast?_end {off : Nat} {fs : List Frame} {r : BlockRecord}
    (hp : ∀ f ∈ fs, f.payload.length ≤ 65533) (hr : (recordsFrom off fs).getLast? = some r) :
    r.payOff + r.length.toNat - 1 = off + (fs.flatMap Frame.bytes).length := by
  rcases fs.eq_nil_or_concat' with rfl | ⟨gs, f, rfl⟩
  · cases hr
  · rw [recordsFrom_append, recordsFrom, recordsFrom, List.getLast?_concat] at hr
    cases hr
    rw [Frame.record_length_toNat (hp f (by simp)), List.flatMap_append, List.length_append, List.flatMap_singleton,
      Frame.bytes_length]
    simp only [Frame.record]
    omega

/-! ### `DEC` of a whole stream -/

/-- Settles O15: `exec_dec_frames`, an induction over the frames. -/
theorem decRecordsEveryFrame : Obligations.DecRecordsEveryFrame :=
  fun _ _ _ hw hin hp hb hroom => exec_dec_frames hw hin hp hb hroom

/-- A `DEC` that ends without a fault has decoded a sequence of frames, which IN is made of (44_decode.md R167 (b)). -/
theorem exec_dec_frames_of_success {s t : State} (hw : s.inLen < 2 ^ s.params.argw) (h : exec .dec s = .next t)
    (he : t.status.err = 0#3) :
    ∃ fs : List Frame, (∀ f ∈ fs, f.payload.length ≤ 65533) ∧ s.inBytes = fs.flatMap Frame.bytes ∧
      t.records = recordsFrom 0 fs ∧ t.recCnt = fs.length := by
  obtain ⟨hin, hscan⟩ := exec_dec_next h
  have hstart := State.Scanning.commandStart hw
  obtain ⟨hidle, -⟩ := State.scan_next_ended hstart (by simp) (by simp) hscan
  obtain ⟨fs, hp, hrest, hroom, -⟩ := State.frames_of_scan hstart (fun m _ => by simp) hscan hidle he
  rw [State.commandStart_rest] at hrest
  obtain ⟨x, hx, hrec, hrc, -⟩ := exec_dec_frames hw hin hp hrest fun m hm => by simpa using hroom m (by simpa using hm)
  cases h.symm.trans hx
  exact ⟨fs, hp, hrest, hrec, hrc⟩

/-- Settles O16: the records are those of the frames IN is made of (`exec_dec_frames_of_success`), whose offsets
`recordsFrom` adds up. -/
theorem decSuccessTilesTheStream : Obligations.DecSuccessTilesTheStream := by
  intro s t _ hw h he
  obtain ⟨fs, hp, hb, hrec, hrc⟩ := exec_dec_frames_of_success hw h he
  rw [hrec, hb]
  refine ⟨by rw [recordsFrom_length, hrc], flatMap_frame_recordsFrom 0 fs, fun r hr => ?first,
    fun i r q hr hq => recordsFrom_payOff_succ hp hr hq, fun r hr => ?last⟩
  case first =>
    rw [recordsFrom_getElem?, Option.map_eq_some_iff] at hr
    obtain ⟨f, -, rfl⟩ := hr
    rfl
  case last => rw [recordsFrom_getLast?_end hp hr, Nat.zero_add, ← hb, s.inBytes_length]

/-- Settles O20: both streams are sequences of frames (`exec_dec_frames_of_success`), so is their concatenation, and the
frames of the second make the same records, moved on (`recordsFrom_add`). -/
theorem decOfConcatenationIsConcatenation : Obligations.DecOfConcatenationIsConcatenation := by
  intro s u w t v hsp hup _ hw hin hb hroom hs hse hu hue
  have hlen : w.inLen = s.inLen + u.inLen := by
    rw [← w.inBytes_length, hb, List.length_append, s.inBytes_length, u.inBytes_length]
  obtain ⟨fs, hfp, hfb, hfrec, hfc⟩ := exec_dec_frames_of_success (by rw [hsp]; omega) hs hse
  obtain ⟨gs, hgp, hgb, hgrec, hgc⟩ := exec_dec_frames_of_success (by rw [hup]; omega) hu hue
  obtain ⟨x, hx, hxrec, -, -, hxst, -⟩ := exec_dec_frames (fs := fs ++ gs) hw hin
    (List.forall_mem_append.mpr ⟨hfp, hgp⟩) (by rw [hb, hfb, hgb, List.flatMap_append])
    (fun m hm => by rw [List.length_append, ← hfc, ← hgc]; exact hroom m hm)
  refine ⟨x, hx, by rw [hxst]; rfl, ?_⟩
  rw [hxrec, recordsFrom_append, ← hfb, s.inBytes_length, recordsFrom_add, ← hfrec, ← hgrec]

/-- Settles O17: `State.scan_ends` from the command start. -/
theorem decAlwaysEnds : Obligations.DecAlwaysEnds := by
  intro s _ hw hin hroom
  obtain ⟨t, ht, -, hbusy, hdone, herr, hnone, hfour, hrest⟩ :=
    State.scan_ends (n := s.inLen / 4 + 1) (State.Scanning.commandStart hw) (by simp) (by simp) (by simp)
      (by simpa using hroom) (by simp)
  rw [State.commandStart_inLen] at hfour
  exact ⟨t, (if_neg (Nat.not_lt.mpr hin)).trans ht, hbusy, hdone, herr, hnone, by omega, hrest⟩

end Sys2Proof.Machine
end

section
/-! PROOF. The blocks that raise (44_decode.md R153 to R157), and one block of a scan by the bytes that remain (R168). -/

namespace Sys2Proof.Machine

/-! ### The blocks that raise -/

/-- A block of which a byte is missing, be it of the head, the payload or the checksum (44_decode.md R153, R154, R156,
R157). -/
theorem State.runBlock_cutShort {s : State} {len : U16} {flag : Byte} {parse : Bool}
    (hw : s.inLen < 2 ^ s.params.argw)
    (h : s.inLen < s.cur + 3 ∨ 2 ≤ len.toNat ∧ s.inLen < s.cur + 2 + len.toNat) :
    ∃ x : State, s.runBlock len flag parse = .next (x.raise .streamTruncated) := by
  by_cases h3 : s.inLen < s.cur + 3
  · obtain ⟨l, c, hx, -⟩ := State.runBlock_headShort hw h3
    exact ⟨_, hx⟩
  · obtain ⟨h2, hshort⟩ := h.resolve_left h3
    obtain ⟨c, hx, -⟩ := State.runBlock_bodyShort hw (Nat.not_lt.mp h3) h2 hshort
    exact ⟨_, hx⟩

/-- Settles O27: both rows are `runBlock` on a length below 2 (`State.runBlock_lengthShort`). -/
theorem illegalLengthsRaiseMalformedBlock : Obligations.IllegalLengthsRaiseMalformedBlock := by
  intro s flag hw h3 i hi
  obtain ⟨x, hx⟩ : ∃ x : State, exec i s = .next (x.raise .malformedBlock) := by
    rcases hi with rfl | rfl <;> exact ⟨_, State.runBlock_lengthShort hw h3 (by decide)⟩
  exact ⟨_, hx, rfl, x.raise_recCnt _, x.raise_warnCnt _, x.raise_outLen _, x.raise_acc _⟩

/-- Settles O28: every block row is `runBlock` on its head, a recording one with a length of at least 2, so
`State.runBlock_cutShort` applies. -/
theorem blocksCutShortRaiseStreamTruncated : Obligations.BlocksCutShortRaiseStreamTruncated := by
  intro s i hwf hfmt hw h
  obtain ⟨x, hx⟩ : ∃ x : State, exec i s = .next (x.raise .streamTruncated) := by
    rcases h with hhead | ⟨len, ⟨rfl, rfl⟩ | hi, hshort⟩
    · obtain ⟨len, flag, he⟩ := exec_block hfmt s
      rw [he]
      exact State.runBlock_cutShort hw (.inl hhead)
    · exact State.runBlock_cutShort hw (.inr ⟨by decide, hshort⟩)
    · obtain ⟨flag, hi'⟩ : ∃ flag, i = .blkData len ∧ flag = 0xFF#8 ∨ i = .blkOther len flag := by
        rcases hi with hd | ⟨flag, ho⟩
        · exact ⟨_, .inl ⟨hd, rfl⟩⟩
        · exact ⟨flag, .inr ho⟩
      obtain ⟨he, h2⟩ := exec_dataOrOther hi' hwf s
      rw [he]
      exact State.runBlock_cutShort hw (.inr ⟨h2, hshort⟩)
  exact ⟨_, hx, rfl, x.raise_recCnt _, x.raise_warnCnt _, x.raise_outLen _⟩

/-! ### One block of a scan -/

/-- A pass of a scan under way that answers a next state is a step, settled. -/
theorem step_of_scanPass {s t : State} (hh : s.host = []) (hs : s.Scanning) (hp : s.scanned.scanPass = .next t) :
    step s = .next (s.settle t) := by
  rw [step_scan hh hs, hp]
  rfl

/-- A pass that raises is a step into the fault (44_decode.md R165). -/
theorem step_of_scanPass_raise {s x : State} {f : TapFault} (hh : s.host = []) (hs : s.Scanning)
    (hp : s.scanned.scanPass = .next (x.raise f)) :
    ∃ t, step s = .next t ∧ t.status = .faulted f ∧ t.recCnt = 0 :=
  ⟨_, step_of_scanPass hh hs hp, rfl, x.raise_recCnt f⟩

/-- Settles O18: a step is a pass over IN as the scan reads it (`step_of_scanPass`), and each row of R168 is a case of the
pass. -/
theorem scanStepByBytesRemaining : Obligations.ScanStepByBytesRemaining := by
  intro s h hb hh hf r l
  have hs := h.toScanning hb
  have hu := hs.scanned
  have hc := hs.cursor
  have hw : s.scanned.inLen < 2 ^ s.scanned.params.argw := hu.width
  have hrun (h3 : 3 ≤ r) := State.scanPass_eq_runBlock (s := s.scanned) hw
    (show s.cur + 3 ≤ s.inLen by omega)
  refine ⟨fun h0 => ?ended, fun h12 => ?head, fun h3 hl => ?illegal, fun h3 h2 hl => ?body, fun h3 h2 hl => ?whole⟩
  case ended =>
    have hp : s.scanned.scanPass = .next s.scanned.commandEnd := if_pos (show s.cur = s.inLen by omega)
    obtain ⟨-, herr, -⟩ := h.scanning hb
    exact ⟨_, step_of_scanPass hh hs hp, rfl, rfl, herr, rfl, rfl⟩
  case head =>
    rcases State.scanPass_headShort (s := s.scanned) hw (show s.cur < s.inLen by omega)
      (show s.inLen < s.cur + 3 by omega) with ⟨hp, -⟩ | ⟨hp, -⟩
    · exact step_of_scanPass_raise hh hs hp
    · exact step_of_scanPass_raise hh hs hp
  case illegal =>
    exact step_of_scanPass_raise hh hs
      ((hrun h3).trans (State.runBlock_lengthShort hw (show s.cur + 3 ≤ s.inLen by omega) hl))
  case body =>
    obtain ⟨x, hx⟩ := State.runBlock_cutShort (s := s.scanned) hw
      (.inr ⟨h2, show s.inLen < s.cur + 2 + l by omega⟩)
    exact step_of_scanPass_raise hh hs ((hrun h3).trans hx)
  case whole =>
    obtain ⟨f, (hfl : f.payload.length + 2 = l), hrest⟩ :=
      State.rest_of_whole (s := s.scanned) h2 (show s.cur + 2 + l ≤ s.inLen by omega)
    have hl16 : l < 65536 := BitVec.isLt _
    obtain ⟨t, ht, hts, -, (hcur : t.cur = s.cur + (f.payload.length + 4)), -, hrc, -⟩ :=
      State.scanPass_frame hu (show s.scanned.recFull = false from hf) (by omega) hrest
    exact ⟨_, step_of_scanPass hh hs ht, hts.busy, show t.cur = s.cur + 2 + l by omega, hrc⟩

end Sys2Proof.Machine
end

section
/-! PROOF. What `unpack` reads (44_decode.md R160): the filename check, the fields at their offsets, the trimmed length. -/

namespace Sys2Proof.Machine

/-- The filename field of a payload. -/
def payloadName (p : List Byte) : Vector Byte 10 := tenBytes fun i => p.getD (1 + i) 0x00#8

theorem payloadName_toList (p : List Byte) :
    (payloadName p).toList = (List.range 10).map fun i => p.getD (1 + i) 0x00#8 := rfl

theorem payloadName_toList_getD (p : List Byte) {i : Nat} (hi : i < 10) :
    (payloadName p).toList.getD i 0x00#8 = p.getD (1 + i) 0x00#8 := by
  simp [payloadName_toList, List.getD_eq_getElem?_getD, hi]

theorem payloadName_toList_eq_slice {p : List Byte} (hp : p.length = 17) :
    (payloadName p).toList = (p.drop 1).take 10 := by
  refine List.ext_getElem (by simp [hp]) fun i hi _ => ?_
  have hi10 : i < 10 := by simpa using hi
  rw [List.getElem_take, List.getElem_drop, ← List.getD_eq_getElem _ 0x00#8 hi, payloadName_toList_getD p hi10,
    List.getD_eq_getElem _ _ (by omega)]

/-- The check of the filename field, byte by byte. -/
theorem payloadName_isAscii_iff {p : List Byte} :
    (payloadName p).toList.all isAscii = true ↔ ∀ i < 10, (p.getD (1 + i) 0x00#8).toNat < 0x80 := by
  simp only [payloadName_toList, List.all_map, List.all_eq_true, List.mem_range, Function.comp_apply, isAscii_iff]

/-- `unpack` fails exactly on a filename byte that is not ASCII. -/
theorem unpack_eq_none_iff {p : List Byte} :
    unpack p = none ↔ ∃ i, 1 ≤ i ∧ i ≤ 10 ∧ 0x80 ≤ (p.getD i 0x00#8).toNat := by
  have hcheck : unpack p = none ↔ ¬ (payloadName p).toList.all isAscii = true :=
    ite_eq_right_iff.trans ⟨fun h ha => (nomatch h ha), fun h ha => absurd ha h⟩
  simp only [hcheck, payloadName_isAscii_iff, not_forall, Nat.not_lt, exists_prop]
  constructor
  · rintro ⟨i, hi, hbyte⟩
    exact ⟨1 + i, by omega, by omega, hbyte⟩
  · rintro ⟨i, h1, h10, hbyte⟩
    exact ⟨i - 1, by omega, by rwa [Nat.add_sub_cancel' h1]⟩

section
variable {p : List Byte} {h : Header} (hu : unpack p = some h)
include hu

/-- Every field but `H_NLEN` is the payload's bytes at its offset. -/
theorem unpack_fields :
    h.hType = p.getD 0 0x00#8 ∧ h.hName = payloadName p ∧ h.hDlen = u16le (p.getD 11 0x00#8) (p.getD 12 0x00#8) ∧
      h.hP1 = u16le (p.getD 13 0x00#8) (p.getD 14 0x00#8) ∧ h.hP2 = u16le (p.getD 15 0x00#8) (p.getD 16 0x00#8) := by
  unfold unpack at hu
  simp only at hu
  split at hu
  · cases hu
    exact ⟨rfl, rfl, rfl, rfl, rfl⟩
  · cases hu

/-- A byte of the name, in the payload. -/
theorem unpack_hName_getD {i : Nat} (hi : i < 10) : h.hName.toList.getD i 0x00#8 = p.getD (1 + i) 0x00#8 := by
  obtain ⟨-, hname, -⟩ := unpack_fields hu
  rw [hname, payloadName_toList_getD p hi]

theorem unpack_fileName_length : h.fileName.length = h.hNlen.toNat := by
  rw [Header.fileName, List.length_take, h.hName.length_toList, Nat.min_eq_left (unpack_hNlen_le_ten hu)]

/-- From the trimmed length on the name is spaces. -/
theorem unpack_space_of_hNlen_le {i : Nat} (hn : h.hNlen.toNat ≤ i) (hi : i < 10) :
    p.getD (1 + i) 0x00#8 = 0x20#8 := by
  have hlen := unpack_fileName_length hu
  rw [← unpack_hName_getD hu hi, unpack_hName_eq_fileName_padded hu, List.getD_append_right _ _ _ _ (by omega),
    List.getD_replicate _ (by omega)]

/-- The last byte of the trimmed name is no space. -/
theorem unpack_last_ne_space (h0 : h.hNlen.toNat ≠ 0) : p.getD h.hNlen.toNat 0x00#8 ≠ 0x20#8 := by
  intro hspace
  have hten := unpack_hNlen_le_ten hu
  have hbyte := unpack_hName_getD hu (i := h.hNlen.toNat - 1) (by omega)
  rw [Nat.add_sub_cancel' (Nat.one_le_iff_ne_zero.mpr h0), hspace] at hbyte
  refine unpack_fileName_getLast?_ne_space hu ?_
  rw [List.getLast?_eq_getElem?, unpack_fileName_length hu, Header.fileName, List.getElem?_take_of_lt (by omega), ← hbyte,
    List.getD_eq_getElem _ _ (by rw [h.hName.length_toList]; omega), List.getElem?_eq_getElem]

end

/-- Settles O24: `unpack_eq_none_iff`, the fields of `unpack_fields`, and where the trimming stops. -/
theorem unpackReadsTheFields : Obligations.UnpackReadsTheFields := by
  intro p hp
  refine ⟨unpack_eq_none_iff, fun h hu => ?_⟩
  obtain ⟨htype, hname, hdlen, hp1, hp2⟩ := unpack_fields hu
  refine ⟨htype, by rw [hname, payloadName_toList_eq_slice hp], by rw [hdlen, u16le_toNat], by rw [hp1, u16le_toNat],
    by rw [hp2, u16le_toNat], unpack_hNlen_le_ten hu, fun i hn hi => unpack_space_of_hNlen_le hu hn hi,
    unpack_last_ne_space hu⟩

end Sys2Proof.Machine
end

section
/-! PROOF. What a fault leaves (60_exceptions.md R186): `STATUS.ERR` is other than 0 only after the one fault entry,
`State.raise`, so a faulted state has the shape that entry gives it. -/

namespace Sys2Proof.Machine

/-- No fault, or the state the fault entry left (60_exceptions.md R186): nothing else sets `ERR`. -/
def State.ClearOrRaised (t : State) : Prop := t.status.err = 0#3 ∨ ∃ (x : State) (f : TapFault), t = x.raise f

/-- A scan under way has not raised: `BUSY` is 0 after a fault. -/
theorem State.ClearOrRaised.err_of_busy {t : State} (h : t.ClearOrRaised) (hb : t.status.busy = true) :
    t.status.err = 0#3 := by
  rcases h with herr | ⟨x, f, rfl⟩
  · exact herr
  · simp at hb

/-- Recording a block, with a warning or without one, does not touch `ERR` (44_decode.md R161). -/
theorem State.recordBlock_err {s t : State} {parse : Bool} {o : Nat} {p : List Byte}
    (ht : s.recordBlock parse o p = .next t) : t.status.err = s.status.err := by
  rcases State.recordBlock_cases s parse o p with
    ⟨-, h⟩ | ⟨-, u, hu, -, -, -, -, -, -, -, -, -, -, hst, -⟩
  · cases h.symm.trans ht
  · cases hu.symm.trans ht
    rw [hst]
    split <;> rfl

/-- A block begun with `ERR` 0 records, or raises. -/
theorem State.runBlock_clearOrRaised {s t : State} {len : U16} {flag : Byte} {parse : Bool}
    (herr : s.status.err = 0#3) (ht : s.runBlock len flag parse = .next t) : t.ClearOrRaised := by
  rcases State.runBlock_cases s len flag parse with ⟨l, f, k, c, ⟨e, -, h⟩ | ⟨o, p, h⟩⟩
  · cases h.symm.trans ht
    exact .inr ⟨_, e, rfl⟩
  · exact .inl ((State.recordBlock_err (h.symm.trans ht)).trans herr)

/-- A pass of the loop begun with `ERR` 0 ends the command, records, or raises. -/
theorem State.scanPass_clearOrRaised {s t : State} (herr : s.status.err = 0#3) (ht : s.scanPass = .next t) :
    t.ClearOrRaised := by
  rcases State.scanPass_forms s with h | ⟨l, f, k, c, ⟨e, -, h⟩ | ⟨parse, o, p, h⟩⟩
  · cases h.symm.trans ht
    exact .inl herr
  · cases h.symm.trans ht
    exact .inr ⟨_, e, rfl⟩
  · exact .inl ((State.recordBlock_err (h.symm.trans ht)).trans herr)

/-- The loop goes on only from a state that has not raised, so a fault in a scan is the last thing that happens in it. -/
theorem State.scan_commandStart_clearOrRaised {n : Nat} {s t : State} (ht : s.commandStart.scan n = .next t) :
    t.ClearOrRaised :=
  State.scan_induction (P := State.ClearOrRaised)
    (fun _ _ hu hb hp => State.scanPass_clearOrRaised (hu.err_of_busy hb) hp) (.inl (by simp)) (by simp) ht

/-- Every command clears `ERR` at its start, so its own `ERR` is 0 or its own fault's; a block does where it begins with
`ERR` 0. -/
theorem exec_clearOrRaised {i : Instr} {s t : State} (hi : i.format = .cmd3 ∨ s.status.err = 0#3)
    (h : exec i s = .next t) : t.ClearOrRaised := by
  cases hf : i.format with
  | framedBlock =>
    have herr : s.status.err = 0#3 := hi.resolve_left (by simp [hf])
    obtain ⟨len, flag, he⟩ := exec_block hf s
    exact State.runBlock_clearOrRaised herr (he.symm.trans h)
  | cmd3 =>
    rcases exec_command_cases hf h with ⟨-, -, f, rfl⟩ | ⟨-, -, rfl⟩ | ⟨-, m, o, l, f, k, a, rfl⟩ |
      ⟨-, nm, d, a, m, o, l, f, k, c, rfl⟩ | ⟨-, -, hsc⟩
    · exact .inr ⟨_, f, rfl⟩
    · exact .inl rfl
    · exact .inl rfl
    · exact .inl rfl
    · exact State.scan_commandStart_clearOrRaised hsc

/-- Settles O31: a next state with `ERR` other than 0 is the fault entry's (`exec_clearOrRaised`), which leaves the status
and clears the results; what it keeps, every instruction keeps (`operandsAndInputsAreKept`). -/
theorem faultsLeaveOnlyTheStatus : Obligations.FaultsLeaveOnlyTheStatus := by
  intro i s t hi h herr
  obtain ⟨x, f, rfl⟩ := (exec_clearOrRaised hi h).resolve_left herr
  exact ⟨⟨f, rfl⟩, x.raise_outLen f, x.raise_recCnt f, x.raise_warnCnt f, x.raise_acc f,
    operandsAndInputsAreKept i s _ h⟩

end Sys2Proof.Machine
end

section
/-! PROOF. Reset and hazards (70_reset_and_hazards.md): a command is refused only beyond a capacity (R221), a register write
while `BUSY` is ignored (R216), reset from any state (R210). -/

namespace Sys2Proof.Machine

/-! ### Outcomes that refuse for a reason only -/

/-- The outcome is no fault of the model, and a refusal in it is for a reason `P`. -/
def RefusesOnly (o : Host.Outcome State Fault Refusal) (P : Refusal → Prop) : Prop :=
  (∀ e, o ≠ .fault e) ∧ ∀ r, o = .refused r → P r

theorem RefusesOnly.next (t : State) (P : Refusal → Prop) : RefusesOnly (.next t) P :=
  ⟨fun _ h => (nomatch h), fun _ h => (nomatch h)⟩

theorem RefusesOnly.refused {P : Refusal → Prop} {r : Refusal} (h : P r) : RefusesOnly (.refused r) P :=
  ⟨fun _ he => (nomatch he), fun _ he => Host.Outcome.refused.inj he ▸ h⟩

theorem RefusesOnly.imp {o : Host.Outcome State Fault Refusal} {P Q : Refusal → Prop} (ho : RefusesOnly o P)
    (h : ∀ r, P r → Q r) : RefusesOnly o Q :=
  ⟨ho.1, fun r hr => h r (ho.2 r hr)⟩

/-! ### Blocks and scans -/

/-- Recording a block is refused only with REC full. -/
theorem State.recordBlock_refusesOnly (s : State) (parse : Bool) (o : Nat) (p : List Byte) :
    RefusesOnly (s.recordBlock parse o p) fun r => r = .recordsBeyondCapacity ∧ s.recFull = true := by
  rcases State.recordBlock_cases s parse o p with ⟨hf, h⟩ | ⟨-, t, h, -⟩ <;> rw [h]
  · exact .refused ⟨rfl, hf⟩
  · exact .next t _

theorem State.runBlock_refusesOnly (s : State) (len : U16) (flag : Byte) (parse : Bool) :
    RefusesOnly (s.runBlock len flag parse) fun r => r = .recordsBeyondCapacity ∧ s.recFull = true := by
  rcases State.runBlock_cases s len flag parse with ⟨l, f, k, c, ⟨e, -, h⟩ | ⟨o, p, h⟩⟩ <;> rw [h]
  · exact .next _ _
  · exact (s.reading l f k c).recordBlock_refusesOnly parse o p

theorem State.scanPass_refusesOnly (s : State) : RefusesOnly s.scanPass fun r => r = .recordsBeyondCapacity := by
  rcases State.scanPass_forms s with h | ⟨l, f, k, c, ⟨e, -, h⟩ | ⟨parse, o, p, h⟩⟩ <;> rw [h]
  · exact .next _ _
  · exact .next _ _
  · exact ((s.reading l f k c).recordBlock_refusesOnly parse o p).imp fun _ hr => hr.1

theorem State.scan_refusesOnly (s : State) (n : Nat) :
    RefusesOnly (s.scan n) fun r => r = .recordsBeyondCapacity := by
  induction n generalizing s with
  | zero => exact .next s _
  | succ n ih =>
    have hpass := s.scanPass_refusesOnly
    cases hp : s.scanPass with
    | next t =>
      cases hb : t.status.busy with
      | true => rw [State.scan_succ_busy hp hb]; exact ih t
      | false => rw [State.scan_succ_idle hp hb]; exact .next t _
    | fault e => exact absurd hp (hpass.1 e)
    | refused r => rw [State.scan, hp]; exact .refused (hpass.2 r hp)

theorem State.exists_recMax_of_recFull {s : State} (hf : s.recFull = true) :
    ∃ m, s.params.recMax = some m ∧ m ≤ s.recCnt := by
  cases hm : s.params.recMax with
  | none => simp [State.recFull, hm] at hf
  | some m =>
    rw [State.recFull_of_recMax hm, decide_eq_true_iff] at hf
    exact ⟨m, rfl, hf⟩

/-- From the cursor on IN holds whole blocks, one more than REC has room for. -/
def State.RestOverfills (s : State) : Prop :=
  ∃ (m : Nat) (fs : List Frame) (rest : List Byte), s.params.recMax = some m ∧ s.rest = fs.flatMap Frame.bytes ++ rest ∧
    (∀ f ∈ fs, f.payload.length ≤ 65533) ∧ s.recCnt + fs.length = m + 1

/-- A scan with no record too many yet is refused only where the blocks to come overfill REC: each pass but the refused one
takes one of them. -/
theorem State.restOverfills_of_scan_refused {s : State} {n : Nat} {r : Refusal} (hs : s.Scanning) (h0 : s.Room 0)
    (h : s.scan n = .refused r) : s.RestOverfills := by
  induction n generalizing s with
  | zero => cases h
  | succ n ih =>
    rcases State.scanPass_cases hs with ⟨-, hp⟩ | ⟨l, f, c, e, -, -, hp⟩ | ⟨f, hlen, hrest, -⟩
    · rw [State.scan_succ_idle hp (by simp)] at h
      cases h
    · rw [State.scan_succ_idle hp (by simp)] at h
      cases h
    · cases hf : s.recFull with
      | true =>
        obtain ⟨m, hm, hle⟩ := State.exists_recMax_of_recFull hf
        have hroom := h0 m hm
        exact ⟨m, [f], _, hm, by simpa using hrest, by simpa using hlen, by rw [List.length_singleton]; omega⟩
      | false =>
        obtain ⟨t, ht, hts, hfix, -, htrest, hrc, -⟩ := State.scanPass_frame hs hf hlen hrest
        rw [State.scan_succ_busy ht hts.busy] at h
        have ht0 : t.Room 0 := by
          intro m hm
          rw [hfix.params] at hm
          rw [State.recFull_of_recMax hm, decide_eq_false_iff_not] at hf
          omega
        obtain ⟨m, fs, rest, hm, hfs, hpay, hcount⟩ := ih hts ht0 h
        refine ⟨m, f :: fs, rest, hfix.params ▸ hm, ?_, List.forall_mem_cons.mpr ⟨hlen, hpay⟩, ?_⟩
        · rw [hrest, ← htrest, hfs, List.flatMap_cons, List.append_assoc]
        · rw [List.length_cons]
          omega

/-! ### Commands -/

theorem execCsum_refusesOnly (s : State) :
    RefusesOnly (execCsum s) fun r => r = .inputBeyondCapacity ∧ s.params.inMax < s.inLen := by
  unfold execCsum
  split
  · exact .refused ⟨rfl, ‹_›⟩
  · exact .next _ _

theorem execEncHdr_refusesOnly (s : State) :
    RefusesOnly (execEncHdr s) fun r => r = .nameBeyondCapacity ∧ s.params.nameMax < s.nameLen ∨
      r = .outputBeyondCapacity ∧ s.params.outMax < 21 := by
  simp only [execEncHdr, State.commandStart_params]
  split
  · exact .refused (.inl ⟨rfl, ‹_›⟩)
  split
  · exact .next _ _
  split
  · exact .refused (.inr ⟨rfl, ‹_›⟩)
  · exact .next _ _

theorem execEncData_refusesOnly (s : State) :
    RefusesOnly (execEncData s) fun r => r = .inputBeyondCapacity ∧ s.params.inMax < s.inLen ∨
      r = .outputBeyondCapacity ∧ s.params.outMax < s.inLen + 4 := by
  simp only [execEncData, State.commandStart_params, State.commandStart_inLen]
  split
  · exact .refused (.inl ⟨rfl, ‹_›⟩)
  split
  · exact .next _ _
  split
  · exact .refused (.inr ⟨rfl, ‹_›⟩)
  · exact .next _ _

theorem execEncTap_refusesOnly (s : State) :
    RefusesOnly (execEncTap s) fun r => r = .inputBeyondCapacity ∧ s.params.inMax < s.inLen ∨
      r = .nameBeyondCapacity ∧ s.params.nameMax < s.nameLen ∨
      r = .outputBeyondCapacity ∧ s.params.outMax < s.inLen + 25 := by
  simp only [execEncTap, State.commandStart_params, State.commandStart_inLen]
  split
  · exact .refused (.inl ⟨rfl, ‹_›⟩)
  split
  · exact .refused (.inr (.inl ⟨rfl, ‹_›⟩))
  split
  · exact .next _ _
  split
  · exact .next _ _
  split
  · exact .refused (.inr (.inr ⟨rfl, ‹_›⟩))
  · exact .next _ _

/-- `DEC` is refused for its input's length, or at a record too many, which a legal `IN_LEN` ties to the blocks of IN. -/
theorem execDec_refusesOnly (s : State) :
    RefusesOnly (execDec s) fun r => r = .inputBeyondCapacity ∧ s.params.inMax < s.inLen ∨
      r = .recordsBeyondCapacity ∧ (s.inLen < 2 ^ s.params.argw → s.commandStart.RestOverfills) := by
  unfold execDec
  split
  · exact .refused (.inl ⟨rfl, ‹_›⟩)
  · have hscan := s.commandStart.scan_refusesOnly (s.inLen / 4 + 1)
    exact ⟨hscan.1, fun r hr => .inr ⟨hscan.2 r hr, fun hw =>
      State.restOverfills_of_scan_refused (State.Scanning.commandStart hw) (fun m _ => by simp) hr⟩⟩

/-- The blocks that overfill REC from the command start on stand at the head of IN; each has four bytes at least. -/
theorem State.RestOverfills.of_commandStart {s : State} (h : s.commandStart.RestOverfills) :
    ∃ (m : Nat) (fs : List Frame) (rest : List Byte), s.params.recMax = some m ∧
      s.inBytes = fs.flatMap Frame.bytes ++ rest ∧ (∀ f ∈ fs, f.payload.length ≤ 65533) ∧ fs.length = m + 1 ∧
      m < s.inLen / 4 := by
  obtain ⟨m, fs, rest, hm, hrest, hpay, hcount⟩ := h
  rw [State.commandStart_rest] at hrest
  rw [State.commandStart_recCnt, Nat.zero_add] at hcount
  have hlen : s.inLen = (fs.flatMap Frame.bytes).length + rest.length := by
    rw [← s.inBytes_length, hrest, List.length_append]
  have hfour := four_mul_length_le_flatMap_bytes fs
  exact ⟨m, fs, rest, by simpa using hm, hrest, hpay, hcount, by omega⟩

/-- A block instruction is refused only with REC full (R221). -/
theorem exec_block_refusesOnly {i : Instr} (hi : i.format = .framedBlock) (s : State) :
    RefusesOnly (exec i s) fun r => r = .recordsBeyondCapacity ∧ ∃ m, s.params.recMax = some m ∧ m ≤ s.recCnt := by
  obtain ⟨len, flag, he⟩ := exec_block hi s
  rw [he]
  exact (s.runBlock_refusesOnly len flag _).imp fun r ⟨hr, hf⟩ => ⟨hr, State.exists_recMax_of_recFull hf⟩

/-- Settles O34: the refusals of each command and of the blocks, in the statement's order of capacities. -/
theorem refusedOnlyBeyondACapacity : Obligations.RefusedOnlyBeyondACapacity := by
  intro i s
  show RefusesOnly (exec i s) _
  by_cases hi : i.format = .framedBlock
  · exact (exec_block_refusesOnly hi s).imp fun r ⟨hr, hm⟩ => .inr (.inr (.inr (.inr ⟨hr, hi, hm⟩)))
  cases i with
  | csum => exact (execCsum_refusesOnly s).imp fun r ⟨hr, hin⟩ => .inl ⟨hr, .inl rfl, hin⟩
  | encHdr =>
    refine (execEncHdr_refusesOnly s).imp fun r h => ?_
    rcases h with ⟨hr, hname⟩ | ⟨hr, hout⟩
    · exact .inr (.inl ⟨hr, .inl rfl, hname⟩)
    · exact .inr (.inr (.inl ⟨hr, .inl ⟨rfl, hout⟩⟩))
  | encData =>
    refine (execEncData_refusesOnly s).imp fun r h => ?_
    rcases h with ⟨hr, hin⟩ | ⟨hr, hout⟩
    · exact .inl ⟨hr, .inr (.inl rfl), hin⟩
    · exact .inr (.inr (.inl ⟨hr, .inr (.inl ⟨rfl, hout⟩)⟩))
  | encTap =>
    refine (execEncTap_refusesOnly s).imp fun r h => ?_
    rcases h with ⟨hr, hin⟩ | ⟨hr, hname⟩ | ⟨hr, hout⟩
    · exact .inl ⟨hr, .inr (.inr (.inl rfl)), hin⟩
    · exact .inr (.inl ⟨hr, .inr rfl, hname⟩)
    · exact .inr (.inr (.inl ⟨hr, .inr (.inr ⟨rfl, hout⟩)⟩))
  | dec =>
    refine (execDec_refusesOnly s).imp fun r h => ?_
    rcases h with ⟨hr, hin⟩ | ⟨hr, hover⟩
    · exact .inl ⟨hr, .inr (.inr (.inr rfl)), hin⟩
    · exact .inr (.inr (.inr (.inl ⟨hr, rfl, fun hw => (hover hw).of_commandStart⟩)))
  | reserved0 => exact .next _ _
  | reserved6 => exact .next _ _
  | reserved7 => exact .next _ _
  | blkIllegalLen0 flag => exact absurd rfl hi
  | blkIllegalLen1 flag => exact absurd rfl hi
  | blkHdr => exact absurd rfl hi
  | blkData len => exact absurd rfl hi
  | blkOther len flag => exact absurd rfl hi

/-! ### The host's side -/

/-- A write of any register, `CMD` included, while `BUSY` (R216). -/
theorem State.hostAct_writeReg_busy {s : State} (hb : s.status.busy = true) (idx v : Nat) :
    s.hostAct (.writeReg idx v) = .next s := by
  by_cases h0 : idx = 0
  · subst h0
    exact if_pos hb
  · rw [State.hostAct_writeReg h0]
    rcases s.writeReg_cases idx v with hw | ⟨hidle, -⟩
    · rw [hw]
    · cases hb.symm.trans hidle

/-- Settles O43: the step is the pending write, which is ignored. -/
theorem writesWhileBusyAreIgnored : Obligations.WritesWhileBusyAreIgnored := by
  intro s idx v rest hh hb
  exact (step_of_host hh).trans (State.hostAct_writeReg_busy (s := s.setHost rest) hb idx v)

/-- Settles O46: the step is `State.hostReset`, which takes every host-visible register from the reset state. -/
theorem resetFromAnyState : Obligations.ResetFromAnyState := by
  intro s rest hh
  have hstep : step s = .next (s.setHost rest).hostReset := step_of_host hh
  have hstatus : State.reset.status.toByte = 0x00#8 := by decide
  exact ⟨_, hstep, hstatus, rfl, rfl, rfl, rfl, rfl, rfl, rfl, rfl⟩

end Sys2Proof.Machine
end

section
/-! PROOF. The internal registers an instruction does not use (the model's choice, log 14): without a header parse a block
leaves the header registers, and a command loads only what its code names. -/

namespace Sys2Proof.Machine

/-- The field registers both directions of the marshaler load (`State.setFields`) hold in `t` what they hold in `s`. -/
structure State.SameFields (s t : State) : Prop where
  hType : t.hType = s.hType
  hName : t.hName = s.hName
  hDlen : t.hDlen = s.hDlen
  hP1   : t.hP1 = s.hP1
  hP2   : t.hP2 = s.hP2

theorem State.recordBlock_unparsed_header {s t : State} {o : Nat} {p : List Byte}
    (ht : s.recordBlock false o p = .next t) : t.hNlen = s.hNlen ∧ State.SameFields s t := by
  rcases State.recordBlock_cases s false o p with
    ⟨-, hr⟩ | ⟨-, u, hu, -, -, -, -, -, -, -, -, -, -, -, -, hnlen, hfields⟩
  · cases hr.symm.trans ht
  · cases hu.symm.trans ht
    obtain ⟨hty, hnm, hdl, hp1, hp2⟩ := hfields rfl
    exact ⟨hnlen (.inl rfl), hty, hnm, hdl, hp1, hp2⟩

/-- A block whose class asks for no header parse leaves the header registers, recorded or faulting (44_decode.md R162). -/
theorem State.runBlock_unparsed_header {s t : State} {len : U16} {flag : Byte}
    (ht : s.runBlock len flag false = .next t) : t.hNlen = s.hNlen ∧ State.SameFields s t := by
  rcases State.runBlock_cases s len flag false with ⟨l, f, k, c, ⟨e, -, hr⟩ | ⟨o, p, hr⟩⟩
  · cases hr.symm.trans ht
    exact ⟨by simp, by constructor <;> simp⟩
  · obtain ⟨hnlen, hfields⟩ := State.recordBlock_unparsed_header (hr.symm.trans ht)
    exact ⟨hnlen, { hfields with }⟩

/-- What a command but `DEC` leaves in the header registers: only the marshaler's pack loads fields, and never `H_NLEN`
(10_state.md R33). -/
theorem exec_command_header {i : Instr} {s t : State} (hi : i.format = .cmd3) (hd : i ≠ .dec) (h : exec i s = .next t) :
    t.hNlen = s.hNlen ∧ (i ≠ .encHdr → i ≠ .encTap → State.SameFields s t) := by
  rcases exec_command_cases hi h with ⟨-, -, f, rfl⟩ | ⟨-, -, rfl⟩ | ⟨-, m, o, l, f, k, a, rfl⟩ |
    ⟨hpack, nm, d, a, m, o, l, f, k, c, rfl⟩ | ⟨hdec, -, -⟩
  · exact ⟨by simp, fun _ _ => by constructor <;> simp⟩
  · exact ⟨by simp, fun _ _ => by constructor <;> simp⟩
  · exact ⟨by simp [State.emitting], fun _ _ => by constructor <;> simp [State.emitting]⟩
  · exact ⟨by simp [State.emitting, State.pack], fun hh ht => absurd hpack (not_or.mpr ⟨hh, ht⟩)⟩
  · exact absurd hdec hd

/-- `LEN`, `FLAG` and `CHK` are loaded by emission and by reading a block; `CSUM` and the reserved codes do neither. -/
theorem exec_keeps_len_flag_chk {i : Instr} {s t : State}
    (hi : i = .csum ∨ i = .reserved0 ∨ i = .reserved6 ∨ i = .reserved7) (h : exec i s = .next t) :
    t.len = s.len ∧ t.flag = s.flag ∧ t.chk = s.chk := by
  have hcmd : i.format = .cmd3 := by rcases hi with rfl | rfl | rfl | rfl <;> rfl
  rcases exec_command_cases hcmd h with ⟨-, -, f, rfl⟩ | ⟨-, -, rfl⟩ | ⟨rfl, -⟩ | ⟨rfl | rfl, -⟩ | ⟨rfl, -⟩
  · simp
  · simp
  all_goals simp at hi

/-- Settles O38: a block without a header parse and a command are told apart by their format. -/
theorem unusedInternalRegistersAreKept : Obligations.UnusedInternalRegistersAreKept := by
  intro i s t _ h
  have hheader : i ≠ .dec → i ≠ .blkHdr →
      t.hNlen = s.hNlen ∧ (i ≠ .encHdr → i ≠ .encTap → State.SameFields s t) := fun hd hb => by
    cases hi : i.format with
    | cmd3 => exact exec_command_header hi hd h
    | framedBlock =>
      obtain ⟨len, flag, he⟩ := exec_block hi s
      rw [decide_eq_false hb] at he
      exact (State.runBlock_unparsed_header (he.symm.trans h)).imp_right fun hf _ _ => hf
  refine ⟨fun hi => exec_keeps_len_flag_chk hi h, fun hh ht hd hb => ?_, fun hd hb => (hheader hd hb).1⟩
  obtain ⟨hty, hnm, hdl, hp1, hp2⟩ := (hheader hd hb).2 hh ht
  exact ⟨hty, hnm, hdl, hp1, hp2⟩

end Sys2Proof.Machine
end
